-- ==== Sys2Proof/Word.lean ====
section
/-! DEFINITION. The word and byte types of the FC-16. -/

namespace Sys2Proof

/-- A 16-bit word: a cell, a setup word, a report word, a word of the return list (spec 0.5). -/
abbrev Word := BitVec 16

/-- An 8-bit character, key code or byte of memory (spec 0.5). -/
abbrev Byte := BitVec 8

/-- A word address, the lines A23..A1 (spec 0.8). -/
abbrev WordAddr := BitVec 23

end Sys2Proof
end

