-- ==== Sys2Proof/Syntax.lean ====
section
/-! DEFINITION. The commands of the block: one constructor of `Instr` for each row of spec/opcode_table.json. -/

namespace Sys2Proof

/-- The four access classes of a processor transfer (R49). -/
inductive AccessClass where
  | pf | pd | nf | nd
deriving DecidableEq, Repr

/-- The byte lanes a transfer selects (R48). -/
inductive Lanes where
  | word | low | high
deriving DecidableEq, Repr

/-- Direction of a transfer, with the 16 data lines of a write (R48). -/
inductive Access where
  | read
  | write (data : Word)
deriving DecidableEq, Repr

/-- A processor transfer as it arrives at the decoder (R48). -/
structure Transfer where
  addr : WordAddr
  lanes : Lanes
  cls : AccessClass
  access : Access
deriving DecidableEq, Repr

/-- The two serial lines (R73). -/
inductive Line where
  | kbd | scn
deriving DecidableEq, Repr

/-- The level of a serial line at a sample (4.1). -/
inductive Level where
  | space | mark
deriving DecidableEq, Repr

/-- The five counters of the report unit (R171). -/
inductive Counter where
  | suppress | lost | discard | scanDrop | lineError
deriving DecidableEq, Repr

/-- The commands, in the order of the opcode table. -/
inductive Instr where
  | coldReset
  | coldResetEnd (straps : BitVec 4)
  | warmReset
  | processorTransfer (t : Transfer)
  | memoryPortGrant
  | processorTransferCompletion
  | mergeReadCompletion
  | heldRangePosting
  | readStateWord (cls : AccessClass) (lanes : Lanes)
  | readCauseWord (cls : AccessClass) (lanes : Lanes)
  | directiveIntake (cls : AccessClass) (value : Word)
  | unknownDirective (cls : AccessClass) (value : Word)
  | writeOperand (cls : AccessClass) (value : Word)
  | clearCounter (cls : AccessClass) (counter : Counter)
  | clearCauses (cls : AccessClass) (value : Word)
  | reportWordWrite (cls : AccessClass) (word : Fin 32) (value : Word)
  | applyRequest (cls : AccessClass) (value : Word)
  | applyTaken
  | setupReadCompletion
  | resultWordWriteCompletion
  | resultEvent
  | scanReadCompletion
  | keyboardFrame (code : Byte) (parityError framingError : Bool)
  | scannerFrame (code : Byte) (parityError framingError : Bool)
  | gapCompareExpiry
  | holdoffCompareExpiry
  | toneCompareExpiry
  | headVerdict
  | dataCharacter
  | cur
  | cul
  | cuu
  | cud
  | hom
  | tab
  | btb
  | nln
  | bsp
  | ins
  | rst
  | del
  | eef
  | ein
  | fex
  | fmn
  | scanToken
  | ent
  | f1ToF12
  | clr
  | composerTransferCompletion
  | unlk
  | lock
  | plcr
  | gmod
  | gunp
  | rmod
  | clin
  | rbld
  | flsh
  | statusWriteCompletion
  | attnPulseEnd
  | lineSample (line : Line) (level : Level)
  | keyingTimerTick
deriving DecidableEq, Repr

end Sys2Proof
end

