-- ==== Sys2Proof/Config.lean ====
section
/-! DEFINITION. What an implementation fixes, and the free values. -/

namespace Sys2Proof

/-- Free value (log 8, log 21): when a tick passes with the holdoff compare and the gap compare both due,
whether the holdoff expiry is taken first. R102 lets either be taken first. -/
opaque Config.holdoffFirst : Nat → Bool

/-- What a byte of memory that nothing has written reads as. DESIGN CHOICE (log 2): the spec gives memory
no contents at power-up. -/
def Config.unwrittenByte : Byte := 0#8

/-- Clocks of a tone pulse: 1000 ticks (R91). -/
def Config.toneTicks : Word := 1000#16

/-- The most tokens the queue holds (R107). -/
def Config.queueSize : Nat := 32

/-- The most entries the map table holds (R8). -/
def Config.tableSize : Nat := 256

/-- The most characters a scan slot holds (R92). -/
def Config.slotSize : Nat := 40

/-- The fairness count's greatest value (R68). -/
def Config.fairnessLimit : Nat := 8

end Sys2Proof
end

