-- ==== Sys2Proof/Machine/State.lean ====
section
/-! DEFINITION. The state of the FC-16: every register, queue, slot, flag and pin the spec gives it, as plain data. -/

namespace Sys2Proof.Machine

/-- Reasons the machine stops: none. The spec names no stop of the part; every refusal it gives is an
effect on the state (causes, counters, lock, completion codes). -/
inductive Fault where
deriving DecidableEq, Repr

/-- Reasons a command has no meaning. -/
inductive Refusal where
  /-- A command the model does not give a meaning. Raised by an arm of `exec` that is rejected by name
  (none is); safe. -/
  | notModelled (mnemonic : String)
deriving DecidableEq, Repr

/-! ### Cells and fields (chapters 1, 2, 12) -/

/-- Entry type of a field (R3). -/
inductive EntryType where
  | any | numeric | digits | checked
deriving DecidableEq, Repr

/-- Fill applied at exit (R3). -/
inductive Adjust where
  | none | zero | blank | null
deriving DecidableEq, Repr

/-- Check digit scheme (R3). -/
inductive CheckScheme where
  | weighted | doubling
deriving DecidableEq, Repr

/-- One entry of the map table: position of the mark cell and its mark word (R8). -/
structure Entry where
  pos : Nat
  word : Word
deriving DecidableEq, Repr

/-- A field as a lookup or a walk gives it (R23, R24). `mark` is absent for the unformatted field, whose
`word` then is a mark word with every class clear and MODIFIED the unformatted-modified flag (R6). -/
structure Field where
  index : Nat
  mark : Option Nat
  word : Word
  start : Nat
  len : Nat
deriving DecidableEq, Repr

/-- Map state (R9). -/
inductive MapState where
  | unbuilt | rebuilding | current | limit
deriving DecidableEq, Repr

/-- The field map's state (R8, R9, R7, R18). -/
structure FieldMap where
  state : MapState
  table : List Entry
  scanPoint : Nat
  modified : Bool
deriving DecidableEq, Repr

/-! ### The transfer path (chapter 3) -/

/-- Byte memory in canonical form: addresses strictly rising, no byte equal to an unwritten one. -/
abbrev Memory := List Host.Cell

/-- The forms of the composer's held range (R53). `span mark len` is R29's span of len + 2 positions. -/
inductive HeldRange where
  | empty
  | span (mark len : Nat)
  | whole
  | cell (pos : Nat)
deriving DecidableEq, Repr

/-- Why a processor transfer is held: the held range (R54), a gather (R55), a rebuild (R58, R60). -/
inductive HoldReason where
  | range | gather | rebuild
deriving DecidableEq, Repr

/-- How a transfer that needs memory goes there: passed (with the report word it is handed to, R65), read
under masking, in LIMIT or with HIDDEN set while it waited (R15, R60), or merged (R61). -/
inductive Route where
  | pass (reportWord : Option (Fin 32))
  | maskedRead
  | merge
deriving DecidableEq, Repr

/-- The decoder's decision on a transfer (R52). -/
inductive Decision where
  | hold (why : HoldReason)
  | route (r : Route)
  | suppress
  | masked
  | report (word : Fin 32)
deriving DecidableEq, Repr

/-- Standing of the processor transfer in hand (R48, R54, R67). -/
inductive Standing where
  | waiting (r : Route)
  | held (why : HoldReason)
  | granted
deriving DecidableEq, Repr

/-- The processor transfer in hand (R48). -/
structure InHand where
  transfer : Transfer
  standing : Standing
deriving DecidableEq, Repr

/-- What ready gave the processor (R48). -/
inductive Answer where
  | written
  | word (w : Word)
deriving DecidableEq, Repr

/-- Whose transfer the memory port carries (R67). A processor transfer notes the report word it is handed
to, masking of the word read, and whether ready is still owed (a warm reset takes it away, R72). -/
inductive Owner where
  | processor (reportWord : Option (Fin 32)) (masked readyOwed : Bool)
  | mergeRead (lanes : Lanes) (data : Word) (readyOwed : Bool)
  | mergeWrite (readyOwed : Bool)
  | setupRead
  | setupResult
  | setupClear
  | status
  | composer
  | mapScan
deriving DecidableEq, Repr

/-- What a transfer does at memory. -/
inductive MemOp where
  | read
  | write (lanes : Lanes) (data : Word)
deriving DecidableEq, Repr

/-- A transfer claimed or granted at the memory port. `orphan` marks one granted before a cold reset,
whose requester does not take its result (R71). -/
structure PortTransfer where
  owner : Owner
  addr : WordAddr
  op : MemOp
  orphan : Bool
deriving DecidableEq, Repr

/-- Kinds of window (R50). -/
inductive WindowKind where
  | disabled | screen | return | report
deriving DecidableEq, Repr

/-! ### Lines and scans (chapters 4, 5) -/

/-- Receive states (R73 to R78). -/
inductive RxState where
  | idle | startCheck | data | parity | stop | recover
deriving DecidableEq, Repr

/-- A receiver. `sample` counts from the start edge, `votes` the mark samples among the judged samples of
the present bit so far (R74). -/
structure Receiver where
  state : RxState
  seenIdle : Bool
  run : Nat
  sample : Nat
  votes : Nat
  shift : Byte
  parityError : Bool
deriving DecidableEq, Repr

/-- Scanner rates (R84). -/
inductive ScanRate where
  | r1200 | r2400 | r4800 | r9600 | r19200
deriving DecidableEq, Repr

/-- Parity of a line (R84). -/
inductive Parity where
  | none | even | odd
deriving DecidableEq, Repr

/-- A line format (R84); `eight` is 8 data bits, else 7. -/
structure LineFormat where
  rate : ScanRate
  eight : Bool
  parity : Parity
deriving DecidableEq, Repr

/-- The result of a frame (R77). -/
structure FrameResult where
  code : Byte
  parityError : Bool
  framingError : Bool
deriving DecidableEq, Repr

/-- The code in the keyboard's holding stage with its completion stamp (4.4). -/
structure HeldCode where
  code : Byte
  stamp : Word
deriving DecidableEq, Repr

/-- States of a scan slot (R92). -/
inductive SlotState where
  | free | collecting | ready | queued | taken
deriving DecidableEq, Repr

/-- A scan slot (R92); its length is the number of its characters. -/
structure ScanSlot where
  state : SlotState
  chars : List Byte
  parity : Bool
  framing : Bool
  illegal : Bool
  overflow : Bool
  stamp : Option Word
deriving DecidableEq, Repr

/-- The four scan slots (R92). -/
structure Slots where
  s0 : ScanSlot
  s1 : ScanSlot
  s2 : ScanSlot
  s3 : ScanSlot
deriving DecidableEq, Repr

/-- Scan in progress (R93). -/
inductive ScanProgress where
  | none
  | collecting (slot : Fin 4)
  | losing
deriving DecidableEq, Repr

/-- Last-accepted record (R93). -/
structure ScanRecord where
  valid : Bool
  chars : List Byte
deriving DecidableEq, Repr

/-- The keying timer (R89, R90): a compare is DISARMED (none) or ARMED with a value. -/
structure Timer where
  counter : Word
  gap : Option Word
  holdoff : Option Word
  toneCompare : Option Word
  gapLimit : Word
  holdoffTicks : Word
deriving DecidableEq, Repr

/-! ### Queue and lock (chapter 6) -/

/-- A token (R107). -/
inductive Token where
  | key (code : Byte)
  | scan (slot : Fin 4)
deriving DecidableEq, Repr

/-- Who claims a place in the queue (R108). -/
inductive Claimant where
  | held
  | slot (slot : Fin 4)
deriving DecidableEq, Repr

/-- A claim in the claim order; `fresh` when it was made in the present tick (R108). -/
structure Claim where
  who : Claimant
  fresh : Bool
deriving DecidableEq, Repr

/-- Reasons of a SYSTEM lock (R114). -/
inductive LockReason where
  | start | send | directive
deriving DecidableEq, Repr

/-- Error codes 01 to 07 (R114). -/
inductive ErrorCode where
  | isProtected | fieldFull | wrongCharacter | checkDigit | mustEnter | mustFill | formatLimit
deriving DecidableEq, Repr

/-- Lock state (R114): the error code is 0 in every state but ERROR. -/
inductive Lock where
  | opened
  | system (reason : LockReason)
  | error (code : ErrorCode)
deriving DecidableEq, Repr

/-! ### The composer (chapters 7, 8) -/

/-- Engine state (R123). -/
inductive Engine where
  | idle | token | send | directive | paused
deriving DecidableEq, Repr

/-- The directives (R172). -/
inductive Directive where
  | unlk | lock | plcr | gmod | gunp | rmod | clin | rbld | flsh
deriving DecidableEq, Repr

/-- Current work (R123). A directive carries its captured operand, which a warm reset takes from the
intake but not from the work (R190). -/
inductive Work where
  | none
  | token (t : Token)
  | directive (d : Directive) (operand : Word)
  | apply
deriving DecidableEq, Repr

/-- What a field walk is for (R151). -/
inductive Walk where
  | validate | gather
deriving DecidableEq, Repr

/-- Phases of the return list (R155, R156, R159, R164). -/
inductive ListPhase where
  | closed | opening | walking | closing | aborting
deriving DecidableEq, Repr

/-- States of a return list at its end (R155). -/
inductive ListState where
  | complete | truncated | aborted
deriving DecidableEq, Repr

/-- What follows exit processing that succeeded: the auto-advance of a character written at x (R134), the
move of a field-moving key to its destination (R136), FEX or FMN at x (R142, R143), a send (R150). -/
inductive ExitNext where
  | advance (x : Nat)
  | move (dest : Nat)
  | field (x : Nat)
  | send
deriving DecidableEq, Repr

/-- What the composer does, in the event itself, when the transfer or posting before it has completed. -/
inductive Cont where
  /-- R127 steps 2 and 3: the first posting, for the field of that mark and length, has been taken. -/
  | holdFirst (mark : Option Nat) (len : Nat) (whole : Bool)
  /-- R127 step 4: WHOLE has been taken. -/
  | holdWhole
  /-- R127 step 4: the narrower posting has been taken. -/
  | holdNarrow
  /-- R133 test 4: the last data cell has been read. -/
  | insertTested (c : Byte)
  /-- R131. -/
  | setModified
  /-- R134 steps 3 and 4. -/
  | charWritten
  /-- R141: the field's cells have been read. -/
  | exitRead (nullFrom : Option Nat) (minus : Bool) (next : ExitNext)
  /-- Exit processing has succeeded. -/
  | exitDone (next : ExitNext)
  /-- The cursor moves and the token ends. -/
  | moveTo (dest : Nat)
  /-- The token ends. -/
  | finish
  /-- R145: the scanned field's cells have been read. -/
  | scanRead
  /-- R140 step 1: WHOLE has been taken. -/
  | eraseTaken
  /-- The erase pass has written its last cell. -/
  | eraseDone
  /-- R151 step 3: the posting for the selected field has been taken. -/
  | stepFirst (walk : Walk) (mark : Option Nat) (len : Nat)
  /-- R151 step 3: WHOLE has been taken. -/
  | stepWhole (walk : Walk)
  /-- R151 step 3: the last posting has been taken. -/
  | stepMade (walk : Walk)
  /-- R152: the field's cells have been read. -/
  | validationRead
  /-- R156: the opening writes have completed. -/
  | listOpened
  /-- R158: the field's cells have been read. -/
  | gatherRead
  /-- R158: the entry of that size has been written. -/
  | entryWritten (size : Nat)
  /-- R159, R164: the final state word has been written. -/
  | listClosed (st : ListState)
  /-- R146 step 2: CELL at the position has been taken. -/
  | cellTaken (pos : Nat)
  /-- R146 step 4: the mark at the position has been rewritten. -/
  | cellDone (pos : Nat)
deriving DecidableEq, Repr

/-- One step of the composer's current work: a transfer on a form-area position or on a word of the return
list, a posting, or a continuation. `writeBack` writes the word last read (a whole-cell move, R2);
`eraseCell` reads a cell and writes a null if it is not one (R139, R140). -/
inductive Op where
  | read (pos : Nat)
  | write (pos : Nat) (w : Word)
  | writeBack (pos : Nat)
  | eraseCell (pos : Nat)
  | list (i : Nat) (w : Word)
  | post (r : HeldRange)
  | call (k : Cont)
deriving DecidableEq, Repr

/-- The composer (R123, R149, R151, R156). `todo` is what is left of the current work, its head the
transfer or posting awaited; `buffer` the words read, latest first. -/
structure Composer where
  engine : Engine
  cursor : Nat
  insertMode : Bool
  work : Work
  begun : Bool
  workingTable : Option (List Entry)
  field : Option Field
  posted : HeldRange
  abortMark : Bool
  keyCode : Byte
  cursorAtSend : Nat
  lastHandled : Option Nat
  listPhase : ListPhase
  used : Nat
  count : Nat
  todo : List Op
  buffer : List Word
deriving DecidableEq, Repr

/-! ### Report unit and setup unit (chapters 9, 10) -/

/-- The eight attention causes (R184). -/
inductive Cause where
  | sendReady | directiveDone | scanDrop | lineError | loss | protect | formatLimit | setupResult
deriving DecidableEq, Repr

/-- Directive state of the intake (R172). -/
inductive IntakeState where
  | none | pending | running | completed
deriving DecidableEq, Repr

/-- Completion codes (R172). -/
inductive Completion where
  | none | done | doneTruncated | refusedRange | refusedState | refusedUnknown | aborted
deriving DecidableEq, Repr

/-- The directive intake (R172); the code is 00h when there is none. -/
structure Intake where
  state : IntakeState
  code : Byte
  operand : Word
  completion : Completion
  overlap : Bool
deriving DecidableEq, Repr

/-- The five counters (R171). -/
structure Counters where
  suppress : Word
  lost : Word
  discard : Word
  scanDrop : Word
  lineError : Word
deriving DecidableEq, Repr

/-- The report unit (R166). `statusLeft` lists the cells of the update pass not yet written, the first the
one claimed; it is empty when the update state is IDLE. -/
structure ReportUnit where
  snapshot : List Word
  snapshotValid : Bool
  counters : Counters
  intake : Intake
  operand : Word
  statusLeft : List (Nat × Word)
  updateRequested : Bool
  pending : Byte
  seen : Byte
  pulse : Bool
deriving DecidableEq, Repr

/-- Setup state (R192). -/
inductive SetupState where
  | unset | applying | active
deriving DecidableEq, Repr

/-- Words 0 to 19 of a setup block (R191). -/
abbrev SetupBlock := List Word

/-- The setup unit (R192). -/
structure SetupUnit where
  state : SetupState
  active : Option SetupBlock
  prior : SetupState
  fetched : List Word
  result : Option Word
  strap : BitVec 4
  applyWaits : Bool
deriving DecidableEq, Repr

/-- The state of the part with the memory behind it, its pins, and the queue of commands. -/
structure State where
  /-- COLD RESET is asserted (R200). -/
  coldAsserted : Bool
  mem : Memory
  inHand : Option InHand
  answer : Option Answer
  heldRange : HeldRange
  posting : Option HeldRange
  port : Option PortTransfer
  fairness : Nat
  setupClaim : Option PortTransfer
  reportClaim : Option PortTransfer
  composerClaim : Option PortTransfer
  map : FieldMap
  composer : Composer
  keyboard : Receiver
  holding : Option HeldCode
  scanner : Receiver
  lineFormat : LineFormat
  pendingFormat : Option LineFormat
  slots : Slots
  collecting : ScanProgress
  terminator : Byte
  record : ScanRecord
  timer : Timer
  queue : List Token
  claimOrder : List Claim
  lock : Lock
  tone : Bool
  report : ReportUnit
  attn : Bool
  setup : SetupUnit
  /-- The model's own: picks the next free value (log 21). -/
  freeIndex : Nat
  /-- Commands waiting, first in, first out. -/
  pending : List Instr
deriving DecidableEq, Repr

/-- A receiver right after cold reset (R87). -/
def Receiver.cold : Receiver :=
  { state := .idle, seenIdle := false, run := 0, sample := 0, votes := 0, shift := 0#8, parityError := false }

/-- A FREE slot after cold reset (R105). -/
def ScanSlot.cold : ScanSlot :=
  { state := .free, chars := [], parity := false, framing := false, illegal := false, overflow := false, stamp := none }

/-- The composer after cold reset (R123, R147). -/
def Composer.cold : Composer :=
  { engine := .idle, cursor := 0, insertMode := false, work := .none, begun := false, workingTable := none,
    field := none, posted := .empty, abortMark := false, keyCode := 0#8, cursorAtSend := 0, lastHandled := none,
    listPhase := .closed, used := 5, count := 0, todo := [], buffer := [] }

/-- The intake with no directive (R189, R190). -/
def Intake.empty : Intake :=
  { state := .none, code := 0#8, operand := 0#16, completion := .none, overlap := false }

/-- The report unit after cold reset (R189). -/
def ReportUnit.cold : ReportUnit :=
  { snapshot := List.replicate 15 0#16, snapshotValid := false,
    counters := { suppress := 0#16, lost := 0#16, discard := 0#16, scanDrop := 0#16, lineError := 0#16 },
    intake := Intake.empty, operand := 0#16, statusLeft := [], updateRequested := false,
    pending := 0#8, seen := 0#8, pulse := false }

/-- The timer after cold reset (R105). -/
def Timer.cold : Timer :=
  { counter := 0#16, gap := none, holdoff := none, toneCompare := none, gapLimit := 200#16, holdoffTicks := 0#16 }

/-- The machine right after cold reset has ended: every block at its cold-reset values (R200), the straps
sampled as 0 (log 1), memory with nothing listed (log 2). -/
def State.reset : State :=
  { coldAsserted := false, mem := [], inHand := none, answer := none, heldRange := .empty, posting := none,
    port := none, fairness := 0, setupClaim := none, reportClaim := none, composerClaim := none,
    map := { state := .unbuilt, table := [], scanPoint := 0, modified := false },
    composer := Composer.cold,
    keyboard := Receiver.cold, holding := none, scanner := Receiver.cold,
    lineFormat := { rate := .r9600, eight := true, parity := .none }, pendingFormat := none,
    slots := { s0 := ScanSlot.cold, s1 := ScanSlot.cold, s2 := ScanSlot.cold, s3 := ScanSlot.cold },
    collecting := .none, terminator := 0x0D#8, record := { valid := false, chars := [] },
    timer := Timer.cold, queue := [], claimOrder := [], lock := .system .start, tone := false,
    report := ReportUnit.cold, attn := false,
    setup := { state := .unset, active := none, prior := .unset, fetched := [], result := none, strap := 0#4,
               applyWaits := false },
    freeIndex := 0, pending := [] }

end Sys2Proof.Machine
end

