-- ==== Sys2Proof/Machine/Operands.lean ====
section
/-! DEFINITION. The fields of cells, setup words and key codes (chapter 12), and byte and word forms. -/

namespace Sys2Proof.Machine

/-- The number in bits lo .. lo+n-1 of a word. -/
def bits (w : Word) (lo n : Nat) : Nat := (w.toNat >>> lo) % 2 ^ n

/-! ### Cells (12.1) -/

/-- Mark flag, bit 15. -/
def isMark (w : Word) : Bool := w.getLsbD 15
/-- PROTECT, bit 14 of a mark word. -/
def isProtected (w : Word) : Bool := w.getLsbD 14
/-- ENTRY TYPE, bits 13–12. -/
def entryType (w : Word) : EntryType :=
  match bits w 12 2 with
  | 0 => .any
  | 1 => .numeric
  | 2 => .digits
  | _ => .checked
/-- AUTO-ADVANCE, bit 11. -/
def autoAdvance (w : Word) : Bool := w.getLsbD 11
/-- MUST-ENTER, bit 10. -/
def mustEnter (w : Word) : Bool := w.getLsbD 10
/-- MUST-FILL, bit 9. -/
def mustFill (w : Word) : Bool := w.getLsbD 9
/-- MODIFIED, bit 8. -/
def isModified (w : Word) : Bool := w.getLsbD 8
/-- ADJUST, bits 7–6. -/
def adjustOf (w : Word) : Adjust :=
  match bits w 6 2 with
  | 0 => .none
  | 1 => .zero
  | 2 => .blank
  | _ => .null
/-- CHECK SCHEME, bit 5. -/
def checkScheme (w : Word) : CheckScheme := if w.getLsbD 5 then .doubling else .weighted
/-- HIDDEN, bit 4. -/
def isHidden (w : Word) : Bool := w.getLsbD 4
/-- UPPERCASE, bit 3. -/
def isUppercase (w : Word) : Bool := w.getLsbD 3
/-- The mark word with MODIFIED set, every other class as held (R4). -/
def withModified (w : Word) : Word := w ||| 0x0100#16
/-- The mark word with MODIFIED clear, every other class as held (R4). -/
def withoutModified (w : Word) : Word := w &&& 0xFEFF#16

/-- The character of a data cell, bits 7–0 (R1). -/
def charOf (w : Word) : Byte := w.setWidth 8
/-- A data cell with a character and enhancements 0 (R2). -/
def dataCell (c : Byte) : Word := c.setWidth 16
/-- Neither null nor blank (R38). -/
def isSignificant (c : Byte) : Bool := c != 0x00#8 && c != 0x20#8
/-- '0'..'9'. -/
def isDigit (c : Byte) : Bool := 0x30 ≤ c.toNat && c.toNat ≤ 0x39

/-- The characters an entry type allows (R133 test 3). -/
def allows (t : EntryType) (c : Byte) : Bool :=
  match t with
  | .any => 0x20 ≤ c.toNat && c.toNat ≤ 0x7E
  | .numeric => isDigit c || c == 0x20#8 || c == 0x2B#8 || c == 0x2D#8 || c == 0x2C#8 || c == 0x2E#8
  | .digits => isDigit c
  | .checked => isDigit c

/-- Folding of 'a'..'z' to 'A'..'Z' in a field with UPPERCASE set (R133 test 1). -/
def foldUpper (upper : Bool) (c : Byte) : Byte :=
  if upper && 0x61 ≤ c.toNat && c.toNat ≤ 0x7A then c - 0x20#8 else c

/-! ### Key codes (12.2, R81) -/

/-- A data character, 20h..7Eh. -/
def isDataCode (c : Byte) : Bool := 0x20 ≤ c.toNat && c.toNat ≤ 0x7E
/-- ENT and F1 to F12, C0h..CCh. -/
def isEnterCode (c : Byte) : Bool := 0xC0 ≤ c.toNat && c.toNat ≤ 0xCC
/-- A send key: C0h..CCh or CFh (CLR). -/
def isSendCode (c : Byte) : Bool := isEnterCode c || c == 0xCF#8
/-- An assigned key code (R81). -/
def isAssigned (c : Byte) : Bool :=
  isDataCode c || (0x80 ≤ c.toNat && c.toNat ≤ 0x8F) || isSendCode c
/-- The four arrow keys, 80h..83h. -/
def isArrowCode (c : Byte) : Bool := 0x80 ≤ c.toNat && c.toNat ≤ 0x83

/-- Code of a directive (R172). -/
def directiveCode : Directive → Byte
  | .unlk => 0x01#8
  | .lock => 0x02#8
  | .plcr => 0x03#8
  | .gmod => 0x04#8
  | .gunp => 0x05#8
  | .rmod => 0x06#8
  | .clin => 0x07#8
  | .rbld => 0x08#8
  | .flsh => 0x09#8

/-! ### Access classes (R49) -/

/-- Normal privilege: ND, and NF judged as ND. -/
def isNormal : AccessClass → Bool
  | .nd => true
  | .nf => true
  | .pf => false
  | .pd => false

/-- The bit of a class in a class mask (12.3). -/
def classBit : AccessClass → Nat
  | .pf => 0
  | .pd => 1
  | .nf => 2
  | .nd => 3

/-- The transfer is a write. -/
def isWrite (t : Transfer) : Bool :=
  match t.access with
  | .read => false
  | .write _ => true

/-! ### The setup block (12.3) -/

/-- Word i of a setup block. -/
def setupWord (u : SetupBlock) (i : Nat) : Word := u.getD i 0#16
/-- R, word 0 bits 15–8. -/
def setupRows (u : SetupBlock) : Nat := bits (setupWord u 0) 8 8
/-- C, word 0 bits 7–0. -/
def setupCols (u : SetupBlock) : Nat := bits (setupWord u 0) 0 8
/-- N = R × C. -/
def formSize (u : SetupBlock) : Nat := setupRows u * setupCols u
/-- Status row enabled, word 1 bit 0. -/
def statusRowOn (u : SetupBlock) : Bool := (setupWord u 1).getLsbD 0
/-- ENFORCE, word 1 bit 1. -/
def enforceOn (u : SetupBlock) : Bool := (setupWord u 1).getLsbD 1
/-- Hidden masking, word 1 bit 2. -/
def maskingOn (u : SetupBlock) : Bool := (setupWord u 1).getLsbD 2
/-- Typeahead, word 1 bit 3. -/
def typeaheadOn (u : SetupBlock) : Bool := (setupWord u 1).getLsbD 3
/-- Attention mode, word 1 bit 4: set for pulse mode. -/
def pulseMode (u : SetupBlock) : Bool := (setupWord u 1).getLsbD 4
/-- M, the position of the cursor mirror word (0.6). -/
def mirrorPos (u : SetupBlock) : Nat := formSize u + if statusRowOn u then setupCols u else 0
/-- Kind of window w, word 2 + 3w bits 1–0. -/
def windowKind (u : SetupBlock) (w : Nat) : WindowKind :=
  match bits (setupWord u (2 + 3 * w)) 0 2 with
  | 0 => .disabled
  | 1 => .screen
  | 2 => .return
  | _ => .report
/-- Size code of window w, word 2 + 3w bits 11–8. -/
def windowSizeCode (u : SetupBlock) (w : Nat) : Nat := bits (setupWord u (2 + 3 * w)) 8 4
/-- Bytes of window w: 512 × 2^k. -/
def windowSize (u : SetupBlock) (w : Nat) : Nat := 512 * 2 ^ windowSizeCode u w
/-- Base byte address of window w, word 3 + 3w bits 14–0 × 200h. -/
def windowBase (u : SetupBlock) (w : Nat) : Nat := bits (setupWord u (3 + 3 * w)) 0 15 * 0x200
/-- Class mask of window w, word 4 + 3w bits 3–0. -/
def windowHasClass (u : SetupBlock) (w : Nat) (c : AccessClass) : Bool :=
  (setupWord u (4 + 3 * w)).getLsbD (classBit c)
/-- Return capacity, word 14. -/
def returnCapacity (u : SetupBlock) : Nat := (setupWord u 14).toNat
/-- Cause enables, word 15 bits 7–0. -/
def causeEnables (u : SetupBlock) : Byte := (setupWord u 15).setWidth 8
/-- Cause levels, word 15 bits 15–8. -/
def causeLevels (u : SetupBlock) : Byte := (setupWord u 15 >>> 8).setWidth 8
/-- Scanner rate, word 16 bits 2–0; none where the code is undefined. -/
def scannerRate (u : SetupBlock) : Option ScanRate :=
  match bits (setupWord u 16) 0 3 with
  | 0 => some .r1200
  | 1 => some .r2400
  | 2 => some .r4800
  | 3 => some .r9600
  | 4 => some .r19200
  | _ => none
/-- Scanner parity, word 16 bits 9–8; none where the code is undefined. -/
def scannerParity (u : SetupBlock) : Option Parity :=
  match bits (setupWord u 16) 8 2 with
  | 0 => some .none
  | 1 => some .even
  | 2 => some .odd
  | _ => none
/-- The scanner format of the block, when rate and parity are defined; word 16 bit 4 set is 8 data bits. -/
def scannerFormat (u : SetupBlock) : Option LineFormat :=
  match scannerRate u, scannerParity u with
  | some r, some p => some { rate := r, eight := (setupWord u 16).getLsbD 4, parity := p }
  | _, _ => none
/-- Terminator, word 17 bits 7–0. -/
def setupTerminator (u : SetupBlock) : Byte := (setupWord u 17).setWidth 8
/-- Gap limit, word 18. -/
def setupGapLimit (u : SetupBlock) : Word := setupWord u 18
/-- Holdoff, word 19. -/
def setupHoldoff (u : SetupBlock) : Word := setupWord u 19

/-- The number of the first window of a kind. -/
def windowOf (u : SetupBlock) (k : WindowKind) : Option Nat :=
  [0, 1, 2, 3].find? (fun w => windowKind u w == k)

/-! ### Addresses -/

/-- The word address of a byte address. -/
def wordAddr (byteAddr : Nat) : WordAddr := BitVec.ofNat 23 (byteAddr / 2)
/-- The byte address of the low byte of a word. -/
def byteAddr (a : WordAddr) : Nat := 2 * a.toNat
/-- The setup block's base for a strap value (R191). -/
def setupBase (strap : BitVec 4) : Nat := strap.toNat * 0x100000 + 0x0FFFC0
/-- Word i of the setup block (R191). -/
def setupAddr (strap : BitVec 4) (i : Nat) : WordAddr := wordAddr (setupBase strap + 2 * i)
/-- SCREEN base, byte address; 0 where there is none (an accepted setup has one, R196). -/
def screenBase (u : SetupBlock) : Nat := (windowOf u .screen).elim 0 (windowBase u)
/-- The cell at position p: SCREEN base plus 2p (0.5). -/
def cellAddr (u : SetupBlock) (p : Nat) : WordAddr := wordAddr (screenBase u + 2 * p)
/-- Word i of the return list: RETURN base plus 2i (12.5). -/
def returnAddr (u : SetupBlock) (i : Nat) : WordAddr :=
  wordAddr ((windowOf u .return).elim 0 (windowBase u) + 2 * i)
/-- Report word i: REPORT base plus 2i (R64). -/
def reportAddr (u : SetupBlock) (i : Nat) : WordAddr :=
  wordAddr ((windowOf u .report).elim 0 (windowBase u) + 2 * i)
/-- The address lies in window w (R51). -/
def windowCovers (u : SetupBlock) (w : Nat) (a : WordAddr) : Bool :=
  windowBase u w ≤ byteAddr a && byteAddr a < windowBase u w + windowSize u w
/-- The position of an address in the SCREEN window, (address − base) / 2, if it is at or above the base. -/
def screenPos (u : SetupBlock) (a : WordAddr) : Option Nat :=
  if screenBase u ≤ byteAddr a then some ((byteAddr a - screenBase u) / 2) else none
/-- The form-area cell an address lies on (R52). -/
def formPos (u : SetupBlock) (a : WordAddr) : Option Nat :=
  match screenPos u a with
  | some p => if p < formSize u then some p else none
  | none => none

end Sys2Proof.Machine
end

