-- ==== Sys2Proof/Machine/Geometry.lean ====
section
/-! DEFINITION. Field geometry and entry arithmetic (chapter 2). -/

namespace Sys2Proof.Machine

/-! ### Extents, lookups and walks (R23, R24, R27, R28) -/

/-- The field of an entry whose next mark is at `next`: data start (m + 1) mod N, length (m′ − m − 1) mod N. -/
def fieldOf (n index : Nat) (e : Entry) (next : Nat) : Field :=
  { index := index, mark := some e.pos, word := e.word, start := (e.pos + 1) % n,
    len := (next + n - e.pos - 1) % n }

/-- The fields of a table in map order, the highest entry's next mark being the lowest (R8). -/
def fieldsFrom (n first : Nat) : Nat → List Entry → List Field
  | _, [] => []
  | i, [e] => [fieldOf n i e first]
  | i, e :: e' :: r => fieldOf n i e e'.pos :: fieldsFrom n first (i + 1) (e' :: r)

/-- The unformatted field (R6): data start 0, length N, every class clear, MODIFIED the flag. -/
def unformattedField (n : Nat) (modified : Bool) : Field :=
  { index := 0, mark := none, word := if modified then 0x8100#16 else 0x8000#16, start := 0, len := n }

/-- The walk of a table (R24): its fields in ascending order of mark position, or the unformatted field. -/
def walkFields (n : Nat) (modified : Bool) (table : List Entry) : List Field :=
  match table with
  | [] => [unformattedField n modified]
  | e :: _ => fieldsFrom n e.pos 0 table

/-- The field a lookup of x chooses (R23): greatest mark position at or below x, else the highest entry. -/
def fieldAt (fs : List Field) (x : Nat) : Option Field :=
  match (fs.filter (fun f => f.mark.getD 0 ≤ x)).getLast? with
  | some f => some f
  | none => fs.getLast?

/-- The offset of x in a field, (x − s) mod N (R28). -/
def offsetOf (n : Nat) (f : Field) (x : Nat) : Nat := (x + n - f.start) % n
/-- x is a data cell of the field (R28). -/
def isDataOf (n : Nat) (f : Field) (x : Nat) : Bool := offsetOf n f x < f.len
/-- The position of offset j, (s + j) mod N (R28). -/
def posAt (n : Nat) (f : Field) (j : Nat) : Nat := (f.start + j) % n

/-- The entry of the table at a position. -/
def entryAt (table : List Entry) (p : Nat) : Option Entry := table.find? (fun e => e.pos == p)

/-- The held range of a field (R29): its span, or the whole form area with one entry or none. -/
def heldRangeOf (table : List Entry) (f : Field) : HeldRange :=
  match f.mark with
  | none => .whole
  | some m => if table.length ≤ 1 then .whole else .span m f.len

/-- The form-area position lies in the range (R29, R53). -/
def rangeCovers (n : Nat) (r : HeldRange) (p : Nat) : Bool :=
  match r with
  | .empty => false
  | .span m len => p < n && (p + n - m) % n ≤ len + 1
  | .whole => p < n
  | .cell q => p == q

/-! ### Cursor moves (R30 to R34) -/

/-- Cursor Right (R30). -/
def cursorRight (n x : Nat) : Nat := (x + 1) % n
/-- Cursor Left (R30). -/
def cursorLeft (n x : Nat) : Nat := (x + n - 1) % n
/-- Cursor Up (R30). -/
def cursorUp (n cols x : Nat) : Nat := (x + n - cols) % n
/-- Cursor Down (R30). -/
def cursorDown (n cols x : Nat) : Nat := (x + cols) % n

/-- An eligible field: unprotected, of length at least 1 (R30). -/
def eligible (f : Field) : Bool := !isProtected f.word && 1 ≤ f.len

/-- The least number of a list. -/
def leastOf : List Nat → Option Nat
  | [] => none
  | a :: r =>
    match leastOf r with
    | none => some a
    | some b => some (if a ≤ b then a else b)

/-- TAB (R31): the distance d in 1..N forward from x to a data start s is ((s − x − 1) mod N) + 1; the least
over the eligible fields gives the destination, 0 when there is none. -/
def tabDest (n : Nat) (fs : List Field) (x : Nat) : Nat :=
  match leastOf ((fs.filter eligible).map (fun f => (f.start + n - x - 1) % n + 1)) with
  | none => 0
  | some d => (x + d) % n

/-- The backward search of BTB (R32): least d in 1..N with (x − d) mod N an eligible data start. -/
def backSearch (n : Nat) (fs : List Field) (x : Nat) : Nat :=
  match leastOf ((fs.filter eligible).map (fun f => (x + n - f.start - 1) % n + 1)) with
  | none => 0
  | some d => (x + n - d) % n

/-- BTB (R32). -/
def btbDest (n : Nat) (fs : List Field) (x : Nat) : Nat :=
  match fieldAt fs x with
  | some f =>
    if eligible f && isDataOf n f x && 0 < offsetOf n f x then f.start else backSearch n fs x
  | none => backSearch n fs x

/-- NLN (R33): least d in 0..N−1 from the start of the next row; that start itself on the unformatted
screen or when no field is eligible. -/
def nlnDest (n rows cols : Nat) (fs : List Field) (x : Nat) : Nat :=
  let rowStart := (x / cols + 1) % rows * cols
  if fs.any (fun f => f.mark.isNone) then rowStart
  else
    match leastOf ((fs.filter eligible).map (fun f => (f.start + n - rowStart) % n)) with
    | none => rowStart
    | some d => (rowStart + d) % n

/-- HOM (R34): the first eligible field in map order, else 0. -/
def homDest (fs : List Field) : Nat :=
  match fs.find? eligible with
  | some f => f.start
  | none => 0

/-! ### Adjust and the minus form (R38 to R40) -/

/-- The significant cells of a field, in order (R38). -/
def significantCells (ws : List Word) : List Word := ws.filter (fun w => isSignificant (charOf w))

/-- The contents with offsets k.. nulled (R38). -/
def nulledFrom (k : Option Nat) (ws : List Word) : List Word :=
  match k with
  | none => ws
  | some k => ws.take k ++ List.replicate (ws.length - k) 0x0000#16

/-- The fill of an ADJUST class (R39); NONE's is the blank of the minus form (R40). -/
def fillCell : Adjust → Word
  | .none => 0x0020#16
  | .zero => 0x0030#16
  | .blank => 0x0020#16
  | .null => 0x0000#16

/-- Adjust (R39). -/
def adjustCells (a : Adjust) (ws : List Word) : List Word :=
  match a with
  | .none => ws
  | _ => List.replicate (ws.length - (significantCells ws).length) (fillCell a) ++ significantCells ws

/-- The minus form (R40). -/
def minusCells (a : Adjust) (ws : List Word) : List Word :=
  List.replicate (ws.length - 1 - (significantCells ws).length) (fillCell a) ++ significantCells ws ++ [0x002D#16]

/-! ### Check digits (R41 to R43) -/

/-- What a digit contributes: at odd i 3 × digit or the doubled digit, at even i the digit (R42). -/
def digitTerm (s : CheckScheme) (odd : Bool) (d : Nat) : Nat :=
  match s, odd with
  | _, false => d
  | .weighted, true => 3 * d
  | .doubling, true => if 9 < 2 * d then 2 * d - 9 else 2 * d

/-- The weighted sum over data digits given from the rightmost leftward (R42). -/
def weightedSum (s : CheckScheme) : Bool → List Nat → Nat
  | _, [] => 0
  | odd, d :: r => digitTerm s odd d + weightedSum s (!odd) r

/-- The expected check (R43). -/
def expectedCheck (s : CheckScheme) (data : List Nat) : Nat := (10 - weightedSum s true data % 10) % 10

/-- The value of a digit character. -/
def digitValue (c : Byte) : Nat := c.toNat - 0x30

/-- The check test (R41) on a sequence of characters. -/
def checkPasses (s : CheckScheme) (cs : List Byte) : Bool :=
  match (cs.filter isSignificant).reverse with
  | [] => true
  | last :: data =>
    (last :: data).all isDigit && !data.isEmpty &&
      digitValue last == expectedCheck s (data.map digitValue)

/-! ### Return-list entries (R45, R46) -/

/-- The gathered characters of a field's cells (R45). -/
def gatheredChars (ws : List Word) : List Byte :=
  (((ws.map charOf).reverse.dropWhile (fun c => c == 0x00#8)).reverse).map
    (fun c => if c == 0x00#8 then 0x20#8 else c)

/-- Characters packed two to a word, the earlier in the low byte (R46). -/
def packChars : List Byte → List Word
  | [] => []
  | [a] => [a.setWidth 16]
  | a :: b :: r => (b ++ a) :: packChars r

/-- Size in words of an entry of n characters: 2 + ⌈n/2⌉ (R46). -/
def entrySize (n : Nat) : Nat := 2 + (n + 1) / 2

/-- The words of an entry (R46). -/
def entryWords (start : Nat) (cs : List Byte) : List Word :=
  BitVec.ofNat 16 start :: BitVec.ofNat 16 cs.length :: packChars cs

end Sys2Proof.Machine
end

