-- ==== Sys2Proof/Machine/Flags.lean ====
section
/-! DEFINITION. Causes, attention, counters, the tone and the keyboard lock: every flag a command sets. -/

namespace Sys2Proof.Machine

/-! ### Causes and attention (R184 to R188) -/

/-- Bit number of a cause (R184). -/
def causeNumber : Cause → Nat
  | .sendReady => 0
  | .directiveDone => 1
  | .scanDrop => 2
  | .lineError => 3
  | .loss => 4
  | .protect => 5
  | .formatLimit => 6
  | .setupResult => 7

/-- The cause's bit in the cause word. -/
def causeBit (c : Cause) : Byte := 1#8 <<< causeNumber c

/-- The causes the active setup enables; none while no setup is active (R187). -/
def enabledCauses (s : State) : Byte :=
  match s.setup.active with
  | none => 0#8
  | some u => causeEnables u

/-- The attention mode is pulse; false while no setup is active. -/
def inPulseMode (s : State) : Bool :=
  match s.setup.active with
  | none => false
  | some u => pulseMode u

/-- The level ATTN has (R188): inactive with no setup active; in pulse mode the pulse; in level mode active
exactly when an enabled cause is pending. -/
def attnLevel (s : State) : Bool :=
  match s.setup.active with
  | none => false
  | some u => if pulseMode u then s.report.pulse else s.report.pending &&& causeEnables u != 0#8

/-- ATTN takes the level R188 gives it. -/
def driveAttn (s : State) : State := { s with attn := attnLevel s }

/-- An offer begins a pulse: pulse mode, the cause enabled and not pending before (R188). -/
def startsPulse (c : Cause) (s : State) : Bool :=
  inPulseMode s && s.report.pending &&& causeBit c == 0#8 && enabledCauses s &&& causeBit c != 0#8

/-- An offered cause joins the pending set and leaves the seen set, and ATTN follows (R184, R188). -/
def offer (c : Cause) (s : State) : State :=
  driveAttn
    { s with
      report.pending := s.report.pending ||| causeBit c
      report.seen := s.report.seen &&& ~~~causeBit c
      report.pulse := s.report.pulse || startsPulse c s }

/-- The least b with bit b set. -/
def lowestBit (m : Byte) : Option Nat := [0, 1, 2, 3, 4, 5, 6, 7].find? (fun b => m.getLsbD b)

/-- The vector code (R187): level 1 before level 0, lowest bit first, plus one; 0 for none. -/
def vectorCode (s : State) : Nat :=
  match s.setup.active with
  | none => 0
  | some u =>
    let on := s.report.pending &&& causeEnables u
    match lowestBit (on &&& causeLevels u) with
    | some b => b + 1
    | none =>
      match lowestBit on with
      | some b => b + 1
      | none => 0

/-! ### Counters (R171) -/

/-- One more, staying at 65535. -/
def countUp (w : Word) : Word := if w = 0xFFFF#16 then w else w + 1#16

/-- The value of a counter. -/
def counterOf (c : Counters) : Counter → Word
  | .suppress => c.suppress
  | .lost => c.lost
  | .discard => c.discard
  | .scanDrop => c.scanDrop
  | .lineError => c.lineError

/-- The counters with one of them set. -/
def setCounter (c : Counters) : Counter → Word → Counters
  | .suppress, w => { c with suppress := w }
  | .lost, w => { c with lost := w }
  | .discard, w => { c with discard := w }
  | .scanDrop, w => { c with scanDrop := w }
  | .lineError, w => { c with lineError := w }

/-- A counter takes one count (R171). -/
def count (k : Counter) (s : State) : State :=
  { s with report.counters := setCounter s.report.counters k (countUp (counterOf s.report.counters k)) }

/-- The report word of a counter (R171). -/
def counterWord : Counter → Fin 32
  | .suppress => 10
  | .lost => 11
  | .discard => 12
  | .scanDrop => 13
  | .lineError => 14

/-! ### Tone and lock (R91, R115 to R118) -/

/-- A tone trigger: the tone compare is armed for 1000 ticks from the counter and TONE is active (R91). -/
def toneTrigger (s : State) : State :=
  { s with tone := true, timer.toneCompare := some (s.timer.counter + Config.toneTicks) }

/-- Number of an error code (R114). -/
def errorNumber : ErrorCode → Nat
  | .isProtected => 1
  | .fieldFull => 2
  | .wrongCharacter => 3
  | .checkDigit => 4
  | .mustEnter => 5
  | .mustFill => 6
  | .formatLimit => 7

/-- The composer raises an error: ERROR with a tone from OPEN, nothing otherwise (R115). -/
def raiseError (c : ErrorCode) (s : State) : State :=
  match s.lock with
  | .opened => toneTrigger { s with lock := .error c }
  | .system _ => s
  | .error _ => s

/-- The send lock (R116). -/
def sendLock (s : State) : State :=
  match s.lock with
  | .opened => { s with lock := .system .send }
  | .system _ => s
  | .error _ => s

/-- UNLK's unlock (R118). -/
def unlockKeyboard (s : State) : State :=
  match s.lock with
  | .opened => s
  | .system _ => { s with lock := .opened }
  | .error _ => s

/-- LOCK (R118). -/
def lockKeyboard (s : State) : State :=
  match s.lock with
  | .opened => { s with lock := .system .directive }
  | .system _ => s
  | .error _ => { s with lock := .system .directive }

end Sys2Proof.Machine
end

