-- ==== Sys2Proof/Machine/Ops.lean ====
section
/-! DEFINITION. The operations the commands share: memory, slots, queue, the report unit's words, the decoder,
the field map, the intake, the status pass, and the end of every event. -/

namespace Sys2Proof.Machine

/-! ### Memory -/

/-- A byte of memory. -/
def readByte : Memory → Nat → Byte
  | [], _ => Config.unwrittenByte
  | (b, v) :: r, a => if b = a then v else readByte r a

/-- A byte of memory written; the canonical form is kept. -/
def writeByte : Memory → Nat → Byte → Memory
  | [], a, v => if v = Config.unwrittenByte then [] else [(a, v)]
  | (b, w) :: r, a, v =>
    if a < b then (if v = Config.unwrittenByte then (b, w) :: r else (a, v) :: (b, w) :: r)
    else if a = b then (if v = Config.unwrittenByte then r else (a, v) :: r)
    else (b, w) :: writeByte r a v

/-- The canonical form: addresses strictly rising and inside the 24-bit space, no byte listed that equals an
unwritten one. -/
abbrev Memory.wf (m : Memory) : Prop :=
  m.Pairwise (fun a b => a.1 < b.1) ∧ ∀ c ∈ m, c.2 ≠ Config.unwrittenByte ∧ c.1 < 2 ^ 24

/-- A word of memory, its low byte at the even address (log 3). -/
def readWord (m : Memory) (a : WordAddr) : Word := readByte m (byteAddr a + 1) ++ readByte m (byteAddr a)

/-- A write of the selected lanes (R48). -/
def writeLanes (m : Memory) (a : WordAddr) (l : Lanes) (w : Word) : Memory :=
  match l with
  | .low => writeByte m (byteAddr a) (w.setWidth 8)
  | .high => writeByte m (byteAddr a + 1) ((w >>> 8).setWidth 8)
  | .word => writeByte (writeByte m (byteAddr a) (w.setWidth 8)) (byteAddr a + 1) ((w >>> 8).setWidth 8)

/-- Memory after a transfer completes. -/
def memAfter (m : Memory) (t : PortTransfer) : Memory :=
  match t.op with
  | .read => m
  | .write l w => writeLanes m t.addr l w

/-! ### Geometry of the active setup -/

/-- N of the active setup; 0 while there is none. -/
def State.formN (s : State) : Nat := s.setup.active.elim 0 formSize
/-- C of the active setup. -/
def State.formC (s : State) : Nat := s.setup.active.elim 0 setupCols
/-- R of the active setup. -/
def State.formR (s : State) : Nat := s.setup.active.elim 0 setupRows
/-- The fields of the live table. -/
def State.liveFields (s : State) : List Field := walkFields s.formN s.map.modified s.map.table
/-- The fields of the working table. -/
def State.workingFields (s : State) : List Field :=
  walkFields s.formN s.map.modified (s.composer.workingTable.getD [])
/-- The lookup of R23 in the live table: none for NO FIELD. -/
def State.lookup (s : State) (x : Nat) : Option Field :=
  match s.map.state with
  | .current => fieldAt s.liveFields x
  | .unbuilt => none
  | .rebuilding => none
  | .limit => none
/-- A gather is in progress (R55). -/
def State.gathering (s : State) : Bool := s.composer.listPhase != .closed
/-- A granted processor transfer has not yet completed (R53). -/
def State.processorInFlight (s : State) : Bool :=
  match s.port with
  | some t =>
    match t.owner with
    | .processor _ _ _ => true
    | .mergeRead _ _ _ => true
    | .mergeWrite _ => true
    | .setupRead => false
    | .setupResult => false
    | .setupClear => false
    | .status => false
    | .composer => false
    | .mapScan => false
  | none => false

/-! ### Slots and queue (R92, R103, R107 to R109) -/

/-- A slot. -/
def getSlot (v : Slots) (i : Fin 4) : ScanSlot :=
  match i with
  | 0 => v.s0
  | 1 => v.s1
  | 2 => v.s2
  | 3 => v.s3

/-- The slots with one of them replaced. -/
def setSlot (v : Slots) (i : Fin 4) (x : ScanSlot) : Slots :=
  match i with
  | 0 => { v with s0 := x }
  | 1 => { v with s1 := x }
  | 2 => { v with s2 := x }
  | 3 => { v with s3 := x }

/-- A slot's state set. -/
def markSlot (i : Fin 4) (st : SlotState) (s : State) : State :=
  { s with slots := setSlot s.slots i { getSlot s.slots i with state := st } }

/-- A slot becomes FREE; its stamp was kept until then (R92). -/
def freeSlot (i : Fin 4) (s : State) : State :=
  { s with slots := setSlot s.slots i { getSlot s.slots i with state := .free, stamp := none } }

/-- The slot of a SCAN token becomes FREE; a KEY token has none. -/
def freeTokenSlot (t : Token) (s : State) : State :=
  match t with
  | .key _ => s
  | .scan i => freeSlot i s

/-- The lowest-numbered FREE slot (R95). -/
def lowestFree (v : Slots) : Option (Fin 4) :=
  ([0, 1, 2, 3] : List (Fin 4)).find? (fun i => (getSlot v i).state == .free)

/-- The ready order (R93): the waiting scan claims, in claim order. -/
def State.readyOrder (s : State) : List (Fin 4) :=
  s.claimOrder.filterMap (fun c =>
    match c.who with
    | .held => none
    | .slot i => some i)

/-- A claim that joins becomes a token at the tail (R109). -/
def joinClaim (c : Claim) (s : State) : State :=
  match c.who with
  | .held =>
    match s.holding with
    | some h => { s with queue := s.queue ++ [.key h.code], holding := none }
    | none => s
  | .slot i => markSlot i .queued { s with queue := s.queue ++ [.scan i] }

/-- Claims join from the front while the queue has a free place (R109). -/
def joinFrom : List Claim → State → State
  | [], s => { s with claimOrder := [] }
  | c :: r, s =>
    if s.queue.length < Config.queueSize then joinFrom r (joinClaim c s) else { s with claimOrder := c :: r }

/-- The entry rule at the end of an event (R109). -/
def joinClaims (s : State) : State := joinFrom s.claimOrder s

/-- The held code's claim goes behind the scan claims of earlier ticks and ahead of those of the present
tick (R108). -/
def insertHeldClaim (cs : List Claim) : List Claim :=
  cs.takeWhile (fun c => !c.fresh) ++ ⟨.held, true⟩ :: cs.dropWhile (fun c => !c.fresh)

/-! ### Report words (R167 to R173, R185, R186; 12.4) -/

/-- Code of a setup state (12.4). -/
def setupStateCode : SetupState → Nat
  | .unset => 0
  | .applying => 1
  | .active => 2
/-- Code of a map state. -/
def mapStateCode : MapState → Nat
  | .unbuilt => 0
  | .rebuilding => 1
  | .current => 2
  | .limit => 3
/-- Code of an engine state. -/
def engineCode : Engine → Nat
  | .idle => 0
  | .token => 1
  | .send => 2
  | .directive => 3
  | .paused => 4
/-- Code of a lock state. -/
def lockCode : Lock → Nat
  | .opened => 0
  | .system _ => 1
  | .error _ => 2
/-- Code of the lock reason. -/
def lockReasonCode : Lock → Nat
  | .opened => 0
  | .system .start => 1
  | .system .send => 2
  | .system .directive => 3
  | .error _ => 0
/-- The error code. -/
def lockErrorCode : Lock → Nat
  | .opened => 0
  | .system _ => 0
  | .error c => errorNumber c
/-- Code of a slot state. -/
def slotStateCode : SlotState → Nat
  | .free => 0
  | .collecting => 1
  | .ready => 2
  | .queued => 3
  | .taken => 4
/-- Code of a directive state. -/
def intakeStateCode : IntakeState → Nat
  | .none => 0
  | .pending => 1
  | .running => 2
  | .completed => 3
/-- Completion code. -/
def completionNumber : Completion → Nat
  | .none => 0
  | .done => 1
  | .doneTruncated => 2
  | .refusedRange => 3
  | .refusedState => 4
  | .refusedUnknown => 5
  | .aborted => 6

/-- The live STATE word. -/
def stateWord (s : State) : Word :=
  BitVec.ofNat 16 (setupStateCode s.setup.state + 4 * mapStateCode s.map.state + 16 * engineCode s.composer.engine +
    256 * lockCode s.lock + 1024 * lockReasonCode s.lock + 4096 * lockErrorCode s.lock +
    32768 * (if s.composer.insertMode then 1 else 0))

/-- The live FIELD word (R24): the index of the cursor's field, FFFFh for NO FIELD or UNFORMATTED. -/
def fieldWord (s : State) : Word :=
  match s.lookup s.composer.cursor with
  | none => 0xFFFF#16
  | some f =>
    match f.mark with
    | none => 0xFFFF#16
    | some _ => BitVec.ofNat 16 f.index

/-- The live DSTAT word. -/
def dstatWord (i : Intake) : Word :=
  BitVec.ofNat 16 (intakeStateCode i.state + 16 * completionNumber i.completion + 256 * (if i.overlap then 1 else 0))

/-- The live SLOTS word. -/
def slotsWord (v : Slots) : Word :=
  BitVec.ofNat 16 (slotStateCode v.s0.state + 16 * slotStateCode v.s1.state + 256 * slotStateCode v.s2.state +
    4096 * slotStateCode v.s3.state)

/-- The live values of report words 1 to 15 (R167). -/
def liveWords (s : State) : List Word :=
  [BitVec.ofNat 16 s.composer.cursor, fieldWord s, BitVec.ofNat 16 s.map.table.length, dstatWord s.report.intake,
   s.report.intake.code.setWidth 16, s.report.operand, BitVec.ofNat 16 s.queue.length, slotsWord s.slots,
   s.timer.counter, s.report.counters.suppress, s.report.counters.lost, s.report.counters.discard,
   s.report.counters.scanDrop, s.report.counters.lineError, 0#16]

/-- What a read of a report word returns (R168, R169, R185, R187). -/
def reportValue (i : Fin 32) (s : State) : Word :=
  if i.val = 0 then stateWord s
  else if i.val ≤ 15 then
    (if s.report.snapshotValid then s.report.snapshot else liveWords s).getD (i.val - 1) 0#16
  else if i.val = 16 then s.report.pending.setWidth 16
  else if i.val = 17 then BitVec.ofNat 16 (vectorCode s)
  else 0#16

/-- What a read of a report word does: word 0 latches the snapshot, word 16 records the seen set. -/
def reportReadEffect (i : Fin 32) (s : State) : State :=
  if i.val = 0 then { s with report.snapshot := liveWords s, report.snapshotValid := true }
  else if i.val = 16 then { s with report.seen := s.report.pending }
  else s

/-- A directive write (R173). -/
def directiveWrite (v : Word) (s : State) : State :=
  match s.report.intake.state with
  | .pending => { s with report.intake.overlap := true }
  | .running => { s with report.intake.overlap := true }
  | .none => acceptDirective s
  | .completed => acceptDirective s
where
  /-- The directive is accepted, and completed at once when its code is unknown. -/
  acceptDirective (s : State) : State :=
    let code : Byte := v.setWidth 8
    if 1 ≤ code.toNat && code.toNat ≤ 9 then
      { s with report.intake :=
          { state := .pending, code := code, operand := s.report.operand, completion := .none, overlap := false } }
    else
      offer .directiveDone
        { s with report.intake :=
            { state := .completed, code := code, operand := s.report.operand, completion := .refusedUnknown,
              overlap := false } }

/-- A write to the cause word (R186): seen causes written 0 leave the pending set, and the seen set empties. -/
def clearCauses (v : Word) (s : State) : State :=
  driveAttn
    { s with
      report.pending := s.report.pending &&& ~~~(s.report.seen &&& ~~~(v.setWidth 8))
      report.seen := 0#8 }

/-- A word write handed to the report unit (R170). -/
def reportWrite (i : Fin 32) (v : Word) (s : State) : State :=
  if i.val = 5 then directiveWrite v s
  else if i.val = 6 then { s with report.operand := v }
  else if i.val = 10 then clearIf .suppress
  else if i.val = 11 then clearIf .lost
  else if i.val = 12 then clearIf .discard
  else if i.val = 13 then clearIf .scanDrop
  else if i.val = 14 then clearIf .lineError
  else if i.val = 16 then clearCauses v s
  else s
where
  /-- 0000h clears a counter, any other value does nothing (R171). -/
  clearIf (c : Counter) : State :=
    if v = 0#16 then { s with report.counters := setCounter s.report.counters c 0#16 } else s

/-- A directive completes (R174): recorded if the intake is RUNNING it, or is NONE at the completion after a warm
reset (R190; log 35); DIRECTIVE DONE is offered when it is recorded. -/
def completeDirective (c : Completion) (s : State) : State :=
  match s.composer.work with
  | .directive d op =>
    match s.report.intake.state with
    | .running => offer .directiveDone { s with report.intake.state := .completed, report.intake.completion := c }
    | .none =>
      offer .directiveDone
        { s with
          report.intake.state := .completed
          report.intake.code := directiveCode d
          report.intake.operand := op
          report.intake.completion := c }
    | .pending => s
    | .completed => s
  | .none => s
  | .token _ => s
  | .apply => s

/-! ### The decoder (R51 to R63) -/

/-- A byte write that lands in the form area is merged (R61); every other transfer passes as issued. -/
def passOrMerge (u : SetupBlock) (t : Transfer) : Decision :=
  match t.lanes, formPos u t.addr with
  | .word, _ => .route (.pass none)
  | .low, some _ => if isWrite t then .route .merge else .route (.pass none)
  | .high, some _ => if isWrite t then .route .merge else .route (.pass none)
  | .low, none => .route (.pass none)
  | .high, none => .route (.pass none)

/-- The written value has the mark flag, judged before any read: a low-lane write keeps the old flag (R62). -/
def writesMarkFlag (t : Transfer) : Bool :=
  match t.lanes, t.access with
  | .low, _ => false
  | _, .read => false
  | .word, .write w => isMark w
  | .high, .write w => isMark w

/-- R57's form-area tests at position p. -/
def refusedCell (s : State) (p : Nat) (t : Transfer) : Bool :=
  (entryAt s.map.table p).isSome || writesMarkFlag t ||
    (match s.lookup p with
     | some f => isProtected f.word && isDataOf s.formN f p
     | none => false)

/-- A normal write decided by the SCREEN window under ENFORCE (R57, R58). UNBUILT does not arise (log 19). -/
def enforcedWrite (u : SetupBlock) (s : State) (t : Transfer) : Decision :=
  match formPos u t.addr with
  | some p =>
    match s.map.state with
    | .current => if refusedCell s p t then .suppress else passOrMerge u t
    | .rebuilding => .hold .rebuild
    | .limit => .suppress
    | .unbuilt => passOrMerge u t
  | none =>
    match screenPos u t.addr with
    | some q =>
      if (statusRowOn u && formSize u ≤ q && q < formSize u + setupCols u) || q == mirrorPos u then .suppress
      else passOrMerge u t
    | none => passOrMerge u t

/-- An ND read decided by the SCREEN window under hidden masking (R60): masked by the table at the decision. A mark
word replaced while the read waits is `maskWaiting`'s (R15). -/
def maskedRead (u : SetupBlock) (s : State) (t : Transfer) : Decision :=
  match formPos u t.addr with
  | some p =>
    match s.map.state with
    | .current =>
      match s.lookup p with
      | some f => if isHidden f.word && isDataOf s.formN f p then .masked else .route (.pass none)
      | none => .route (.pass none)
    | .rebuilding => .hold .rebuild
    | .limit => .route .maskedRead
    | .unbuilt => .route (.pass none)
  | none => .route (.pass none)

/-- The first window that covers the address and holds the class (R51). -/
def decidingWindow (u : SetupBlock) (t : Transfer) : Option Nat :=
  [0, 1, 2, 3].find? (fun w => windowKind u w != .disabled && windowCovers u w t.addr && windowHasClass u w t.cls)

/-- The report word an address in the live span names (R64). -/
def liveWordOf (base : Nat) (a : WordAddr) : Option (Fin 32) :=
  let i := (byteAddr a - base) / 2
  if h : i < 32 then some ⟨i, h⟩ else none

/-- The window action (R52 test 3). -/
def windowAction (u : SetupBlock) (s : State) (t : Transfer) : Decision :=
  match decidingWindow u t with
  | none => passOrMerge u t
  | some w =>
    match windowKind u w with
    | .disabled => passOrMerge u t
    | .screen =>
      if isWrite t then
        (if enforceOn u && isNormal t.cls then enforcedWrite u s t else passOrMerge u t)
      else if maskingOn u && t.cls == .nd then maskedRead u s t
      else passOrMerge u t
    | .return => if isWrite t && isNormal t.cls then .suppress else passOrMerge u t
    | .report =>
      match liveWordOf (windowBase u w) t.addr with
      | none => passOrMerge u t
      | some i =>
        if isWrite t then
          (match t.lanes with
           | .word => .route (.pass (some i))
           | .low => passOrMerge u t
           | .high => passOrMerge u t)
        else .report i

/-- R52 test 1: the address lies on a form-area cell inside the held range. -/
def inHeldRange (u : SetupBlock) (s : State) (a : WordAddr) : Bool :=
  match formPos u a with
  | some p => rangeCovers (formSize u) s.heldRange p
  | none => false

/-- R52 test 2: a write into the RETURN window while a gather is in progress. -/
def inGatherHold (u : SetupBlock) (s : State) (t : Transfer) : Bool :=
  isWrite t && s.gathering &&
    (match windowOf u .return with
     | some w => windowCovers u w t.addr
     | none => false)

/-- The decision on a transfer (R52). With no setup active, and while cold reset is asserted, every transfer
passes plainly (R71). -/
def decideTransfer (s : State) (t : Transfer) : Decision :=
  if s.coldAsserted then .route (.pass none)
  else
    match s.setup.active with
    | none => .route (.pass none)
    | some u =>
      if inHeldRange u s t.addr then .hold .range
      else if inGatherHold u s t then .hold .gather
      else windowAction u s t

/-- The transfer in hand takes the decision: it is held, waits for a grant, or is answered at once
(R48, R54, R59, R60, R64). -/
def carryDecision (t : Transfer) (d : Decision) (s : State) : State :=
  match d with
  | .hold why => { s with inHand := some ⟨t, .held why⟩, answer := none }
  | .route r => { s with inHand := some ⟨t, .waiting r⟩, answer := none }
  | .suppress => count .suppress (offer .protect { s with inHand := none, answer := some .written })
  | .masked => { s with inHand := none, answer := some (.word 0x0020#16) }
  | .report i => reportReadEffect i { s with inHand := none, answer := some (.word (reportValue i s)) }

/-- A transfer is decided and carried (R52). -/
def takeIn (t : Transfer) (s : State) : State := carryDecision t (decideTransfer s t) s

/-- The transfer in hand, unless granted, is decided anew (R52, R54). -/
def decideAnew (s : State) : State :=
  match s.inHand with
  | none => s
  | some h =>
    match h.standing with
    | .granted => s
    | .waiting _ => takeIn h.transfer s
    | .held _ => takeIn h.transfer s

/-- The transfer in hand, when it is held, is released and decided anew (R52, R54); one that waits for a grant
keeps its decision, which only a posting or a switch takes again. -/
def decideHeld (s : State) : State :=
  match s.inHand with
  | none => s
  | some h =>
    match h.standing with
    | .granted => s
    | .waiting _ => s
    | .held _ => takeIn h.transfer s

/-! ### Postings (R53) -/

/-- The decoder takes a posting, and transfers in hand are decided anew (R53, R54). -/
def takePosting (r : HeldRange) (s : State) : State := decideAnew { s with heldRange := r, posting := none }

/-- The composer posts a range; it waits to be taken (HELD_RANGE_POSTING). It takes the place of a posting that still
waits, as an EMPTY before it may (log 7). -/
def postRange (r : HeldRange) (s : State) : State := { s with composer.posted := r, posting := some r }

/-- The composer posts EMPTY (R53): taken at once unless a granted processor transfer is in flight, which it
waits for (log 7). -/
def releaseRange (s : State) : State :=
  if s.heldRange = .empty ∧ s.posting = none then { s with composer.posted := .empty }
  else if s.processorInFlight then postRange .empty s
  else takePosting .empty { s with composer.posted := .empty }

/-! ### The field map (R11 to R22) -/

/-- An entry at its place in ascending order (R13). -/
def insertEntry (e : Entry) : List Entry → List Entry
  | [] => [e]
  | x :: r => if e.pos < x.pos then e :: x :: r else x :: insertEntry e r

/-- The table without its entry at p (R14). -/
def removeEntry (p : Nat) (table : List Entry) : List Entry := table.filter (fun e => e.pos != p)

/-- The table with the mark word of its entry at p replaced (R15). -/
def replaceEntry (p : Nat) (w : Word) (table : List Entry) : List Entry :=
  table.map (fun e => if e.pos = p then ⟨p, w⟩ else e)

/-- The judgement of R12 on the table; none when a 257th mark is created (R13). -/
def judgeWrite (p : Nat) (w : Word) (m : FieldMap) : Option FieldMap :=
  match entryAt m.table p, isMark w with
  | none, false => some m
  | none, true =>
    if Config.tableSize ≤ m.table.length then none
    else some { m with table := insertEntry ⟨p, w⟩ m.table, modified := m.modified && !m.table.isEmpty }
  | some _, false => some { m with table := removeEntry p m.table }
  | some _, true => some { m with table := replaceEntry p w m.table }

/-- The address is a form-area cell of the field whose mark stands at p. -/
def inFieldOf (p : Nat) (s : State) (a : WordAddr) : Bool :=
  match s.setup.active with
  | none => false
  | some u =>
    match formPos u a with
    | none => false
    | some q => (s.lookup q).any (fun f => f.mark == some p)

/-- The mark word at p has been replaced: a read of its field that waits for its grant is masked by the new HIDDEN (R15).
It goes on waiting, and is answered 0020h or its word at its completion (log 32). -/
def maskWaiting (p : Nat) (s : State) : State :=
  match s.inHand with
  | none => s
  | some h =>
    match h.standing with
    | .granted => s
    | .held _ => s
    | .waiting _ =>
      if isWrite h.transfer || !inFieldOf p s h.transfer.addr then s
      else
        match decideTransfer s h.transfer with
        | .masked => { s with inHand := some ⟨h.transfer, .waiting .maskedRead⟩ }
        | .route r => { s with inHand := some ⟨h.transfer, .waiting r⟩ }
        | .hold _ => s
        | .suppress => s
        | .report _ => s

/-- A write judged in CURRENT: the map follows it, and after a replacement a waiting read its HIDDEN (R12 to R15). -/
def followWrite (p : Nat) (w : Word) (m : FieldMap) (s : State) : State :=
  if (entryAt s.map.table p).isSome && isMark w then maskWaiting p { s with map := m } else { s with map := m }

/-- The composer is IDLE with no work. -/
def idleComposer (s : State) : State :=
  { s with
    composer.engine := .idle, composer.work := .none, composer.begun := false, composer.workingTable := none,
    composer.field := none, composer.lastHandled := none, composer.todo := [], composer.buffer := [] }

/-- The rebuild has ended: the composer leaves PAUSED, completing RBLD with DONE (R21, R125, R180), and the
decoder decides anew what it held (R58, R60). -/
def rebuildEnded (s : State) : State :=
  decideHeld
    (match s.composer.work with
     | .directive _ _ => idleComposer (completeDirective .done s)
     | .apply => idleComposer s
     | .none => s
     | .token _ => s)

/-- The map enters LIMIT and offers FORMAT LIMIT (R13, R21, R22). -/
def enterLimit (s : State) : State := offer .formatLimit { s with map.state := .limit, map.table := [] }

/-- A rebuild ends in LIMIT: no further read is requested, the flag is cleared (R21). A read of the scan claimed and
not yet granted is withdrawn, and the scan point stays at the cell it has (log 33). -/
def rebuildLimit (s : State) : State :=
  rebuildEnded (enterLimit { s with map.modified := false, composerClaim := none })

/-- Upkeep of a write completed at form-area position p with whole value w (R12, R16, R20). While REBUILDING every read
that masking may touch is held (R60). -/
def upkeep (p : Nat) (w : Word) (s : State) : State :=
  match s.map.state with
  | .unbuilt => s
  | .limit => s
  | .current =>
    match judgeWrite p w s.map with
    | some m => followWrite p w m s
    | none => enterLimit s
  | .rebuilding =>
    if p < s.map.scanPoint then
      match judgeWrite p w s.map with
      | some m => { s with map := m }
      | none => rebuildLimit s
    else s

/-- The scan's read of the cell at its point (R19). -/
def scanClaim (u : SetupBlock) (p : Nat) : PortTransfer :=
  { owner := .mapScan, addr := cellAddr u p, op := .read, orphan := false }

/-- The scan's next read is claimed (R19). -/
def claimScan (s : State) : State :=
  match s.setup.active with
  | none => s
  | some u => { s with composerClaim := some (scanClaim u s.map.scanPoint) }

/-- A rebuild starts, under the active setup (R18). -/
def startRebuild (s : State) : State :=
  match s.setup.active with
  | none => s
  | some u =>
    { s with
      map.state := .rebuilding, map.table := [], map.scanPoint := 0, composerClaim := some (scanClaim u 0) }

/-! ### The status pass (R182, R183) -/

/-- The character of a decimal digit. -/
def digitCell (d : Nat) : Word := BitVec.ofNat 16 (0x30 + d % 10)

/-- Columns 0–7 of the status row. -/
def lockCells : Lock → List Word
  | .opened => List.replicate 8 0x0020#16
  | .system _ => [0x0057#16, 0x0041#16, 0x0049#16, 0x0054#16] ++ List.replicate 4 0x0020#16
  | .error c => [0x0045#16, 0x0052#16, 0x0052#16, 0x0020#16, 0x0030#16, digitCell (errorNumber c), 0x0020#16, 0x0020#16]

/-- Columns 9–11. -/
def insertCells (on : Bool) : List Word :=
  if on then [0x0049#16, 0x004E#16, 0x0053#16] else List.replicate 3 0x0020#16

/-- Columns C−7 to C−2: row and column counted from 1. -/
def cursorCells (cols x : Nat) : List Word :=
  [digitCell ((x / cols + 1) / 10), digitCell (x / cols + 1), 0x002F#16, digitCell ((x % cols + 1) / 100),
   digitCell ((x % cols + 1) / 10), digitCell (x % cols + 1)]

/-- The status row (R182). -/
def statusRow (cols : Nat) (lock : Lock) (insertMode : Bool) (x : Nat) : List Word :=
  lockCells lock ++ [0x0020#16] ++ insertCells insertMode ++ List.replicate (cols - 19) 0x0020#16 ++
    cursorCells cols x ++ [0x0020#16]

/-- Words at successive positions. -/
def fromPos : Nat → List Word → List (Nat × Word)
  | _, [] => []
  | p, w :: r => (p, w) :: fromPos (p + 1) r

/-- The status image (R182): the row when enabled, then the mirror word. -/
def statusImage (u : SetupBlock) (s : State) : List (Nat × Word) :=
  (if statusRowOn u then
     fromPos (formSize u) (statusRow (setupCols u) s.lock s.composer.insertMode s.composer.cursor)
   else []) ++ [(mirrorPos u, BitVec.ofNat 16 s.composer.cursor)]

/-- The report unit claims the first cell left of its pass (R183). -/
def claimStatus (u : SetupBlock) (s : State) : State :=
  match s.report.statusLeft with
  | [] => { s with reportClaim := none }
  | (p, w) :: _ =>
    { s with reportClaim := some { owner := .status, addr := cellAddr u p, op := .write .word w, orphan := false } }

/-- A pass begins when one is requested, the unit is IDLE and a setup is active (R183). -/
def beginPass (s : State) : State :=
  match s.setup.active with
  | none => s
  | some u =>
    if s.report.updateRequested && s.report.statusLeft.isEmpty then
      claimStatus u { s with report.updateRequested := false, report.statusLeft := statusImage u s }
    else s

/-- What the status image is formed from: a change of it requests an update (R183). -/
def statusKey (s : State) : Lock × Bool × Nat := (s.lock, s.composer.insertMode, s.composer.cursor)

/-- A change of lock, insert mode or cursor in the event from s0 to s1 requests an update (R183). -/
def noteChange (s0 s1 : State) : State :=
  if statusKey s0 = statusKey s1 then s1 else { s1 with report.updateRequested := true }

/-- The end of every event: claims join (R109), and a status pass begins if one is due (R183). -/
def settle (s0 s1 : State) : State := beginPass (noteChange s0 (joinClaims s1))

/-- A command's event: when it can take place it changes the state, and when it cannot nothing changes (log 4). -/
def event (can : Bool) (f : State → State) (s : State) : Host.Outcome State Fault Refusal :=
  if can then .next (settle s (f s)) else .next s

end Sys2Proof.Machine
end

