-- ==== Sys2Proof/Machine/Composer.lean ====
section
/-! DEFINITION. The composer's engine: holds, exit processing, passes, walks and the return list, as a list of
transfers, postings and continuations carried out one at a time (chapters 7, 8). -/

namespace Sys2Proof.Machine

/-! ### The list of work -/

/-- The rest of the current work. -/
def setTodo (ops : List Op) (s : State) : State := { s with composer.todo := ops }
/-- Work put before the rest. -/
def pushTodo (ops : List Op) (s : State) : State := { s with composer.todo := ops ++ s.composer.todo }
/-- The words read are forgotten before a new series of reads. -/
def clearBuffer (s : State) : State := { s with composer.buffer := [] }
/-- The word last read. -/
def lastRead (s : State) : Word := s.composer.buffer.headD 0#16
/-- The words read, in order. -/
def wordsRead (s : State) : List Word := s.composer.buffer.reverse
/-- The held field; the unformatted field where there is none. -/
def heldField (s : State) : Field := s.composer.field.getD (unformattedField s.formN s.map.modified)
/-- Every cursor move is computed mod N (R126). -/
def setCursor (x : Nat) (s : State) : State := { s with composer.cursor := x % s.formN }
/-- Insert mode turned off. -/
def insertOff (s : State) : State := { s with composer.insertMode := false }

/-- Work ends (R124): EMPTY is posted, a SCAN token's slot becomes FREE (R103), the composer is IDLE. -/
def endWork (s : State) : State :=
  idleComposer
    (releaseRange
      (match s.composer.work with
       | .token t => freeTokenSlot t s
       | .none => s
       | .directive _ _ => s
       | .apply => s))

/-- A token is refused: its code is raised and its work ends (R115, section 7.3). -/
def refuse (c : ErrorCode) (s : State) : State := endWork (raiseError c s)

/-- A directive completes and its work ends (R174). -/
def finishDirective (c : Completion) (s : State) : State := endWork (completeDirective c s)

/-! ### Cells of a field -/

/-- Positions of a field's offsets from j, count many. -/
def fieldCells (n : Nat) (f : Field) (j count : Nat) : List Nat :=
  (List.range count).map (fun i => posAt n f (j + i))

/-- Reads of a field's cells at offsets 0..L−1, ascending. -/
def readOps (n : Nat) (f : Field) : List Op := (fieldCells n f 0 f.len).map Op.read

/-- Writes, ascending, of each cell whose new word differs from the word read (R39). -/
def diffOps (n : Nat) (f : Field) : Nat → List Word → List Word → List Op
  | _, [], _ => []
  | _, _ :: _, [] => []
  | j, old :: os, new :: ns =>
    (if old = new then [] else [Op.write (posAt n f j) new]) ++ diffOps n f (j + 1) os ns

/-- The moves of an insert at offset k, from offset L − 2 down to k (R35). -/
def insertMoves (n : Nat) (f : Field) (k : Nat) : List Op :=
  ((List.range (f.len - 1 - k)).reverse).flatMap
    (fun i => [Op.read (posAt n f (k + i)), Op.writeBack (posAt n f (k + i + 1))])

/-- The moves of a delete at offset k, from offset k + 1 up, and the null at L − 1 (R36). -/
def deleteMoves (n : Nat) (f : Field) (k : Nat) : List Op :=
  (List.range (f.len - 1 - k)).flatMap
    (fun i => [Op.read (posAt n f (k + 1 + i)), Op.writeBack (posAt n f (k + i))]) ++
    [Op.write (posAt n f (f.len - 1)) 0x0000#16]

/-- The writes and clearings of the erase pass on one field (R140 steps 2 and 3). -/
def eraseField (n : Nat) (f : Field) : List Op :=
  (if eligible f then (fieldCells n f 0 f.len).map Op.eraseCell else []) ++
    (match f.mark with
     | some m => if isModified f.word then [Op.write m (withoutModified f.word)] else []
     | none => [])

/-- Words of the return list from word i on. -/
def listOps : Nat → List Word → List Op
  | _, [] => []
  | i, w :: r => Op.list i w :: listOps (i + 1) r

/-! ### Taking hold (R127) -/

/-- Steps 1: the held range of the field the first lookup finds is posted; NO FIELD refuses the token. -/
def takeHold (s : State) : State :=
  match s.lookup s.composer.cursor with
  | none => refuse .formatLimit s
  | some f =>
    let r := heldRangeOf s.map.table f
    setTodo [.post r, .call (.holdFirst f.mark f.len (r == .whole))] s

/-! ### Exit processing (R141) -/

/-- Exit processing begins: the held field's cells are read once. -/
def startExit (nullFrom : Option Nat) (minus : Bool) (next : ExitNext) (s : State) : State :=
  setTodo (readOps s.formN (heldField s) ++ [.call (.exitRead nullFrom minus next)]) (clearBuffer s)

/-- The new contents exit processing computes (R38 to R40, R141). -/
def exitContents (f : Field) (nullFrom : Option Nat) (minus : Bool) (old : List Word) : List Word :=
  if minus then minusCells (adjustOf f.word) (nulledFrom nullFrom old)
  else adjustCells (adjustOf f.word) (nulledFrom nullFrom old)

/-- The check test applies and fails (R141). -/
def exitFails (f : Field) (new : List Word) : Bool :=
  entryType f.word == .checked && !checkPasses (checkScheme f.word) (new.map charOf)

/-- The cells have been read: the check fails with the cursor at the data start, or the changed cells are
written. -/
def exitComputed (nullFrom : Option Nat) (minus : Bool) (next : ExitNext) (s : State) : State :=
  let f := heldField s
  let new := exitContents f nullFrom minus (wordsRead s)
  if exitFails f new then endWork (setCursor f.start (raiseError .checkDigit s))
  else setTodo (diffOps s.formN f 0 (wordsRead s) new ++ [.call (.exitDone next)]) s

/-- R136's conditions for exit processing of the field being left, over a table's fields. -/
def exitDue (n : Nat) (fs : List Field) (x dest : Nat) : Bool :=
  match fieldAt fs x with
  | some f =>
    f.mark.isSome && isDataOf n f x && !isProtected f.word && isModified f.word && !isDataOf n f dest
  | none => false

/-- R150's conditions for exit processing of the cursor's field at a send. -/
def sendExitDue (n : Nat) (f : Field) (x : Nat) : Bool :=
  f.mark.isSome && isDataOf n f x && !isProtected f.word && isModified f.word

/-- Destination of a field-moving key, 84h to 87h, over a table's fields (R136). -/
def moverDest (s : State) (code : Byte) (fs : List Field) (x : Nat) : Nat :=
  if code = 0x84#8 then homDest fs
  else if code = 0x85#8 then tabDest s.formN fs x
  else if code = 0x86#8 then btbDest s.formN fs x
  else nlnDest s.formN s.formR s.formC fs x

/-! ### The return list and the field walk (R151 to R164) -/

/-- RETURN window present (R161). -/
def hasReturn (s : State) : Bool :=
  match s.setup.active with
  | some u => (windowOf u .return).isSome
  | none => false

/-- The state word's code (12.5). -/
def listStateWord : ListState → Word
  | .complete => 0x0001#16
  | .truncated => 0x0002#16
  | .aborted => 0x0003#16

/-- The decoder is told that a gather is in progress: a write into the RETURN window that waits for its grant is held
from then on (R55, R162; log 34). -/
def holdForGather (s : State) : State :=
  match s.setup.active, s.inHand with
  | some u, some h =>
    match h.standing with
    | .waiting _ =>
      if inGatherHold u s h.transfer then { s with inHand := some ⟨h.transfer, .held .gather⟩ } else s
    | .held _ => s
    | .granted => s
  | some _, none => s
  | none, _ => s

/-- The list opens with five writes, the gather in progress (R156). -/
def openList (s : State) : State :=
  setTodo
    (listOps 0 [0x8000#16, s.composer.keyCode.setWidth 16, BitVec.ofNat 16 s.composer.cursorAtSend, 0#16, 5#16] ++
      [.call .listOpened])
    (holdForGather { s with composer.listPhase := .opening, composer.used := 5, composer.count := 0 })

/-- The three closing writes (R159, R164). -/
def closingWrites (st : ListState) (s : State) : State :=
  setTodo
    [.list 3 (BitVec.ofNat 16 s.composer.count), .list 4 (BitVec.ofNat 16 s.composer.used),
     .list 0 (listStateWord st), .call (.listClosed st)] s

/-- The list closes (R159). -/
def closeList (st : ListState) (s : State) : State :=
  closingWrites st { s with composer.listPhase := .closing }

/-- The abort of an open list (R164). -/
def abortList (s : State) : State := closingWrites .aborted { s with composer.listPhase := .aborting }

/-- A send key's list is done: SEND READY unless the abort mark is set (R159, R161, R163), and the send ends. -/
def finishSend (s : State) : State :=
  endWork (if s.composer.abortMark then s else offer .sendReady s)

/-- Send lock, insert mode off, and the list if there is a RETURN window (R153, R154, R161). -/
def lockAndList (s : State) : State :=
  let s := insertOff (sendLock s)
  if hasReturn s then openList s else finishSend s

/-- The final state word has been written: the gather ends, the decoder releases what it held for it, and the
send or directive completes (R159, R164, R178). -/
def listDone (st : ListState) (s : State) : State :=
  let s := { s with composer.listPhase := .closed }
  match s.composer.work with
  | .directive _ _ =>
    decideHeld
      (finishDirective (match st with | .complete => .done | .truncated => .doneTruncated | .aborted => .aborted) s)
  | .token _ => decideHeld (finishSend s)
  | .none => decideHeld s
  | .apply => decideHeld s

/-- The selection of R151 step 1: none when the map is not CURRENT, `some none` when the walk ends. -/
def selectField (s : State) : Option (Option Field) :=
  match s.map.state with
  | .current =>
    some
      (match s.composer.lastHandled with
       | none => s.liveFields.head?
       | some last => s.liveFields.find? (fun f => f.mark.any (fun m => last < m)))
  | .unbuilt => none
  | .rebuilding => none
  | .limit => none

/-- A walk finds the map not CURRENT (R160). -/
def walkLimit (w : Walk) (s : State) : State :=
  match w with
  | .validate => refuse .formatLimit s
  | .gather => closeList .truncated s

/-- A walk has handled its last field (R153, R159). -/
def walkEnd (w : Walk) (s : State) : State :=
  match w with
  | .validate => lockAndList s
  | .gather => closeList .complete s

/-- R151 steps 1 and 2: the next field is selected and its held range posted. -/
def selectStep (w : Walk) (s : State) : State :=
  match selectField s with
  | none => walkLimit w s
  | some none => walkEnd w s
  | some (some f) => setTodo [.post (heldRangeOf s.map.table f), .call (.stepFirst w f.mark f.len)] s

/-- A walk begins with no position handled. -/
def startWalk (w : Walk) (s : State) : State := selectStep w { s with composer.lastHandled := none }

/-- The field's work is done; the walk goes on, or ends after the unformatted field (R151 step 5). -/
def nextStep (w : Walk) (s : State) : State :=
  match (heldField s).mark with
  | none => walkEnd w s
  | some m => selectStep w { s with composer.lastHandled := some m }

/-- Validation of the held field (R152). -/
def validateField (s : State) : State :=
  let f := heldField s
  if f.mark.isNone || !eligible f then nextStep .validate s
  else if mustEnter f.word && !isModified f.word then endWork (setCursor f.start (raiseError .mustEnter s))
  else if isModified f.word && (mustFill f.word || entryType f.word == .checked) then
    setTodo (readOps s.formN f ++ [.call .validationRead]) (clearBuffer s)
  else nextStep .validate s

/-- The must-fill and check tests on the words read (R152). -/
def validationJudged (s : State) : State :=
  let f := heldField s
  if mustFill f.word && !(wordsRead s).all (fun w => isSignificant (charOf w)) then
    endWork (setCursor f.start (raiseError .mustFill s))
  else if entryType f.word == .checked && !checkPasses (checkScheme f.word) ((wordsRead s).map charOf) then
    endWork (setCursor f.start (raiseError .checkDigit s))
  else nextStep .validate s

/-- The gather takes the field (R157). -/
def gatherTakes (s : State) (f : Field) : Bool :=
  match s.composer.work with
  | .directive .gunp _ => eligible f
  | _ => isModified f.word

/-- The cells of a taken field have been read: its entry is written when it fits, else the list is truncated
(R158, R47). -/
def gatherJudged (s : State) : State :=
  let f := heldField s
  let cs := gatheredChars (wordsRead s)
  let size := entrySize cs.length
  if s.composer.used + size ≤ s.setup.active.elim 0 returnCapacity then
    setTodo (listOps s.composer.used (entryWords f.start cs) ++ [.call (.entryWritten size)]) s
  else closeList .truncated s

/-- Gather of the held field (R157, R158). -/
def gatherField (s : State) : State :=
  if gatherTakes s (heldField s) then
    setTodo (readOps s.formN (heldField s) ++ [.call .gatherRead]) (clearBuffer s)
  else nextStep .gather s

/-- An entry has been written whole (R158). -/
def countEntry (size : Nat) (s : State) : State :=
  { s with composer.used := s.composer.used + size, composer.count := s.composer.count + 1 }

/-- The hold of a field step is made (R151 step 4). -/
def madeStep (w : Walk) (f : Field) (s : State) : State :=
  let s := { s with composer.field := some f, composer.workingTable := some s.map.table }
  match w with
  | .validate => validateField s
  | .gather => gatherField s

/-- R151 step 3 at the first posting. -/
def stepTaken (w : Walk) (mark : Option Nat) (len : Nat) (s : State) : State :=
  match selectField s with
  | none => walkLimit w s
  | some none => setTodo [.post .whole, .call (.stepWhole w)] s
  | some (some f) =>
    if f.mark = mark ∧ f.len = len then madeStep w f s
    else setTodo [.post .whole, .call (.stepWhole w)] s

/-- R151 step 3 under WHOLE. -/
def stepUnderWhole (w : Walk) (s : State) : State :=
  match selectField s with
  | none => walkLimit w s
  | some none => walkEnd w s
  | some (some f) =>
    setTodo [.post (heldRangeOf s.map.table f), .call (.stepMade w)] { s with composer.field := some f }

/-! ### The passes (R140, R146) -/

/-- The erase pass posts WHOLE (R140 step 1). -/
def startErase (s : State) : State := setTodo [.post .whole, .call .eraseTaken] s

/-- WHOLE is taken: the pass is laid out over the table, or refused when the map is not CURRENT (R140). -/
def erasePass (s : State) : State :=
  match s.map.state with
  | .current =>
    let s := { s with composer.workingTable := some s.map.table }
    setTodo (s.workingFields.flatMap (eraseField s.formN) ++ [.call .eraseDone]) s
  | .unbuilt => eraseRefused s
  | .rebuilding => eraseRefused s
  | .limit => eraseRefused s
where
  /-- EIN and CLR are refused with FORMAT LIMIT, CLIN completes with REFUSED-STATE. -/
  eraseRefused (s : State) : State :=
    match s.composer.work with
    | .directive _ _ => finishDirective .refusedState s
    | .token _ => refuse .formatLimit s
    | .none => s
    | .apply => s

/-- The pass has ended: the unformatted flag is cleared on an unformatted screen, the cursor moves as HOM does,
and EIN, CLIN or CLR goes on (R140, R154, R179). -/
def eraseEnded (s : State) : State :=
  let s := { s with map.modified := s.map.modified && !s.map.table.isEmpty }
  let s := setCursor (homDest s.workingFields) s
  match s.composer.work with
  | .directive _ _ => finishDirective .done s
  | .token (.key c) => if c = 0xCF#8 then lockAndList (releaseRange s) else endWork s
  | .token (.scan _) => endWork s
  | .none => s
  | .apply => s

/-- The clear-modified pass has ended: UNLK unlocks, and the directive completes (R146, R175, R179). -/
def passEnded (s : State) : State :=
  match s.composer.work with
  | .directive .unlk _ => finishDirective .done (unlockKeyboard s)
  | _ => finishDirective .done s

/-- R146 steps 1 and 2: CELL is posted at the next entry of the live table. -/
def cellStep (s : State) : State :=
  match s.map.table.find? (fun e => s.composer.lastHandled.all (fun last => last < e.pos)) with
  | some e => setTodo [.post (.cell e.pos), .call (.cellTaken e.pos)] s
  | none => passEnded s

/-- The clear-modified pass begins; on the unformatted screen it clears the flag with no transfer (R146). -/
def startClearPass (s : State) : State :=
  let s := { s with composer.lastHandled := none }
  if s.map.state = .current ∧ s.map.table = [] then passEnded { s with map.modified := false }
  else cellStep s

/-- R146 step 3: the mark word the map holds is rewritten with MODIFIED clear if it is set. -/
def cellHeld (p : Nat) (s : State) : State :=
  match entryAt s.map.table p with
  | some e =>
    if isModified e.word then setTodo [.write p (withoutModified e.word), .call (.cellDone p)] s
    else cellStep { s with composer.lastHandled := some p }
  | none => cellStep { s with composer.lastHandled := some p }

/-! ### Tokens once their hold is made (R133 to R145) -/

/-- The cursor is the field's mark, or the field has PROTECT set. -/
def notEnterable (s : State) (f : Field) : Bool :=
  !isDataOf s.formN f s.composer.cursor || isProtected f.word

/-- A data character on the held field (R133, R134). -/
def heldCharacter (c : Byte) (s : State) : State :=
  let f := heldField s
  let ch := foldUpper (isUppercase f.word) c
  if notEnterable s f then refuse .isProtected s
  else if !allows (entryType f.word) ch then refuse .wrongCharacter s
  else if s.composer.insertMode then
    setTodo [.read (posAt s.formN f (f.len - 1)), .call (.insertTested ch)] (clearBuffer s)
  else setTodo [.write s.composer.cursor (dataCell ch), .call .setModified, .call .charWritten] s

/-- R133 test 4 and the insert of R35. -/
def insertJudged (ch : Byte) (s : State) : State :=
  let f := heldField s
  if charOf (lastRead s) != 0x00#8 then refuse .fieldFull s
  else
    setTodo
      (insertMoves s.formN f (offsetOf s.formN f s.composer.cursor) ++
        [.write s.composer.cursor (dataCell ch), .call .setModified, .call .charWritten]) s

/-- R131: MODIFIED of the held field is set, by a mark write or in the flag. -/
def markModified (s : State) : State :=
  match (heldField s).mark with
  | none => { s with map.modified := true }
  | some m =>
    if isModified (heldField s).word then s else pushTodo [.write m (withModified (heldField s).word)] s

/-- R134 steps 3 and 4: the cursor advances, and auto-advance runs exit processing. -/
def characterDone (s : State) : State :=
  let f := heldField s
  let x := s.composer.cursor
  let s' := setCursor (x + 1) s
  if f.mark.isSome && offsetOf s.formN f x + 1 == f.len && autoAdvance f.word then
    startExit none false (.advance x) s'
  else endWork s'

/-- DEL on the held field (R138). -/
def heldDelete (s : State) : State :=
  let f := heldField s
  if notEnterable s f then refuse .isProtected s
  else
    setTodo (deleteMoves s.formN f (offsetOf s.formN f s.composer.cursor) ++ [.call .setModified, .call .finish]) s

/-- EEF on the held field (R139). -/
def heldErase (s : State) : State :=
  let f := heldField s
  let k := offsetOf s.formN f s.composer.cursor
  if notEnterable s f then refuse .isProtected s
  else
    setTodo ((fieldCells s.formN f k (f.len - k)).map Op.eraseCell ++ [.call .setModified, .call .finish]) s

/-- FEX on the held field (R142). -/
def heldFieldExit (s : State) : State :=
  let f := heldField s
  if notEnterable s f then refuse .isProtected s
  else startExit (some (offsetOf s.formN f s.composer.cursor)) false (.field s.composer.cursor) s

/-- FMN on the held field (R143). -/
def heldFieldMinus (s : State) : State :=
  let f := heldField s
  if notEnterable s f then refuse .isProtected s
  else if entryType f.word != .numeric then refuse .wrongCharacter s
  else startExit (some (offsetOf s.formN f s.composer.cursor)) true (.field s.composer.cursor) s

/-- A field-moving key on the held field: judged again over the working table (R136). -/
def heldMove (code : Byte) (s : State) : State :=
  let dest := moverDest s code s.workingFields s.composer.cursor
  if exitDue s.formN s.workingFields s.composer.cursor dest then startExit none false (.move dest) s
  else endWork (setCursor dest s)

/-- ENT and F1 to F12 on the held field (R150). -/
def heldSend (s : State) : State :=
  if sendExitDue s.formN (heldField s) s.composer.cursor then startExit none false .send s
  else startWalk .validate (releaseRange s)

/-- The scan's characters folded for the held field (R144). -/
def foldedScan (i : Fin 4) (s : State) : List Byte :=
  (getSlot s.slots i).chars.map (foldUpper (isUppercase (heldField s).word))

/-- R144's rejection tests. -/
def scanRejected (i : Fin 4) (s : State) : Bool :=
  let f := heldField s
  match f.mark with
  | none => s.formN < s.composer.cursor + (getSlot s.slots i).chars.length
  | some _ =>
    notEnterable s f || f.len < (getSlot s.slots i).chars.length ||
      !(foldedScan i s).all (allows (entryType f.word)) ||
      (entryType f.word == .checked && !checkPasses (checkScheme f.word) (foldedScan i s))

/-- A SCAN token is rejected: cause, count and tone, no operator error (R144). -/
def rejectScan (s : State) : State := endWork (toneTrigger (count .scanDrop (offer .scanDrop s)))

/-- A SCAN token on the held field (R144, R145). -/
def heldScan (i : Fin 4) (s : State) : State :=
  let x := s.composer.cursor
  let chars := (getSlot s.slots i).chars
  if scanRejected i s then rejectScan s
  else
    match (heldField s).mark with
    | none =>
      setTodo
        ((fromPos x (chars.map dataCell)).map (fun pw => Op.write pw.1 pw.2) ++
          [.call .setModified, .call (.moveTo (if x + chars.length ≤ s.formN - 1 then x + chars.length else s.formN - 1))]) s
    | some _ => setTodo (readOps s.formN (heldField s) ++ [.call .scanRead]) (clearBuffer s)

/-- The contents of a scanned field (R44, R145). -/
def scanContents (f : Field) (cs : List Byte) : List Word :=
  adjustCells (adjustOf f.word) (cs.map dataCell ++ List.replicate (f.len - cs.length) 0x0000#16)

/-- Where a scan leaves the cursor on a formatted screen (R44, R145). -/
def scanDest (s : State) (f : Field) (n : Nat) : Nat :=
  if autoAdvance f.word then tabDest s.formN s.workingFields (posAt s.formN f (f.len - 1))
  else posAt s.formN f (if n ≤ f.len - 1 then n else f.len - 1)

/-- The scanned field's cells have been read: the changed ones are written (R145). -/
def scanComputed (s : State) : State :=
  let f := heldField s
  match s.composer.work with
  | .token (.scan i) =>
    let cs := foldedScan i s
    setTodo
      (diffOps s.formN f 0 (wordsRead s) (scanContents f cs) ++
        [.call .setModified, .call (.moveTo (scanDest s f cs.length))]) s
  | .token (.key _) => s
  | .none => s
  | .directive _ _ => s
  | .apply => s

/-- The hold is made: the token's own work goes on (R127). -/
def heldWork (s : State) : State :=
  match s.composer.work with
  | .token (.scan i) => heldScan i s
  | .token (.key c) =>
    if isDataCode c then heldCharacter c s
    else if c = 0x89#8 then heldDelete s
    else if c = 0x8B#8 then heldErase s
    else if c = 0x8D#8 then heldFieldExit s
    else if c = 0x8E#8 then heldFieldMinus s
    else if isEnterCode c then heldSend s
    else heldMove c s
  | .none => s
  | .directive _ _ => s
  | .apply => s

/-- The hold is made on a field, the live table becoming the working table (R127). -/
def holdMade (f : Field) (s : State) : State :=
  heldWork { s with composer.field := some f, composer.workingTable := some s.map.table }

/-- R127 steps 2 and 3: the working lookup, its table becoming the working table whether the hold is made by it or
WHOLE is posted after it. -/
def holdTaken (mark : Option Nat) (len : Nat) (whole : Bool) (s : State) : State :=
  match s.lookup s.composer.cursor with
  | none => refuse .formatLimit s
  | some f =>
    if whole || (f.mark == mark && f.len == len) then holdMade f s
    else setTodo [.post .whole, .call .holdWhole] { s with composer.workingTable := some s.map.table }

/-- R127 step 4: the working lookup under WHOLE, and the narrower posting. -/
def holdUnderWhole (s : State) : State :=
  match s.lookup s.composer.cursor with
  | none => refuse .formatLimit s
  | some f =>
    setTodo [.post (heldRangeOf s.map.table f), .call .holdNarrow]
      { s with composer.field := some f, composer.workingTable := some s.map.table }

/-- What follows exit processing that succeeded. -/
def exitSucceeded (next : ExitNext) (s : State) : State :=
  match next with
  | .advance x => endWork (setCursor (tabDest s.formN s.workingFields x) s)
  | .move dest => endWork (setCursor dest s)
  | .field x => setTodo [.call .setModified, .call (.moveTo (tabDest s.formN s.workingFields x))] s
  | .send => startWalk .validate (releaseRange s)

/-- The list has been opened: an abort mark ends it at once, CLR closes it, else the fields are walked
(R154, R156, R163). -/
def listOpened (s : State) : State :=
  if s.composer.abortMark then abortList s
  else if s.composer.keyCode = 0xCF#8 then closeList .complete s
  else startWalk .gather { s with composer.listPhase := .walking }

/-! ### Carrying the work on -/

/-- A continuation. -/
def runCont (k : Cont) (s : State) : State :=
  match k with
  | .holdFirst m len whole => holdTaken m len whole s
  | .holdWhole => holdUnderWhole s
  | .holdNarrow => heldWork s
  | .insertTested c => insertJudged c s
  | .setModified => markModified s
  | .charWritten => characterDone s
  | .exitRead nf minus next => exitComputed nf minus next s
  | .exitDone next => exitSucceeded next s
  | .moveTo dest => endWork (setCursor dest s)
  | .finish => endWork s
  | .scanRead => scanComputed s
  | .eraseTaken => erasePass s
  | .eraseDone => eraseEnded s
  | .stepFirst w m len => stepTaken w m len s
  | .stepWhole w => stepUnderWhole w s
  | .stepMade w => madeStep w (heldField s) s
  | .validationRead => validationJudged s
  | .listOpened => listOpened s
  | .gatherRead => gatherJudged s
  | .entryWritten size => nextStep .gather (countEntry size s)
  | .listClosed st => listDone st s
  | .cellTaken p => cellHeld p s
  | .cellDone p => cellStep { s with composer.lastHandled := some p }

/-- The composer's claim of a transfer (R130). -/
def claimComposer (a : WordAddr) (op : MemOp) (s : State) : State :=
  { s with composerClaim := some { owner := .composer, addr := a, op := op, orphan := false } }

/-- The head of the work is begun: its transfer is claimed, or its range posted. -/
def beginOp (u : SetupBlock) (op : Op) (s : State) : State :=
  match op with
  | .read p => claimComposer (cellAddr u p) .read s
  | .write p w => claimComposer (cellAddr u p) (.write .word w) s
  | .writeBack p => claimComposer (cellAddr u p) (.write .word (lastRead s)) s
  | .eraseCell p => claimComposer (cellAddr u p) .read s
  | .list i w => claimComposer (returnAddr u i) (.write .word w) s
  | .post r => postRange r s
  | .call _ => s

/-- The composer carries its work on until a transfer or a posting must be waited for. A chain of
continuations with nothing to wait for is at most six long (log 22), within the fuel. -/
def carryOn : Nat → State → State
  | 0, s => s
  | fuel + 1, s =>
    match s.composer.todo with
    | [] => s
    | .call k :: rest => carryOn fuel (runCont k (setTodo rest s))
    | op :: _ =>
      match s.setup.active with
      | some u => beginOp u op s
      | none => s

/-- The composer goes on with its work. -/
def resume (s : State) : State := carryOn 16 s

end Sys2Proof.Machine
end

