-- ==== Sys2Proof/Machine/Directives.lean ====
section
/-! DEFINITION. The directives the composer takes from the intake (R174 to R181). -/

namespace Sys2Proof.Machine

/-- The composer can take this directive: it is PENDING, the composer is IDLE and no apply waits (R124, R174). -/
def directiveWaits (d : Directive) (s : State) : Bool :=
  s.report.intake.state == .pending && s.report.intake.code == directiveCode d &&
    s.composer.engine == .idle && !s.setup.applyWaits

/-- The taking: engine DIRECTIVE, the intake RUNNING (R174). -/
def takeDirective (d : Directive) (s : State) : State :=
  { s with
    composer.engine := .directive
    composer.work := .directive d s.report.intake.operand
    report.intake.state := .running }

/-- A directive's row: when it waits it is taken, and its work begins. -/
def directiveRow (d : Directive) (f : State → State) (s : State) : Host.Outcome State Fault Refusal :=
  event (directiveWaits d s) (fun s => f (takeDirective d s)) s

/-- The operand captured at the acceptance. -/
def takenOperand (s : State) : Word :=
  match s.composer.work with
  | .directive _ op => op
  | .none => 0#16
  | .token _ => 0#16
  | .apply => 0#16

/-- UNLK: refused in ERROR; the clear-modified pass when bit 0 is set; the unlock (R175). -/
def runUnlock (s : State) : State :=
  match s.lock with
  | .error _ => finishDirective .refusedState s
  | .opened => unlock s
  | .system _ => unlock s
where
  /-- Steps 1 to 3 of R175. -/
  unlock (s : State) : State :=
    if (takenOperand s).getLsbD 0 then resume (startClearPass s) else finishDirective .done (unlockKeyboard s)

/-- UNLK (R175). -/
def execUnlk (s : State) : Host.Outcome State Fault Refusal := directiveRow .unlk runUnlock s

/-- LOCK (R176). -/
def execLock (s : State) : Host.Outcome State Fault Refusal :=
  directiveRow .lock (fun s => finishDirective .done (lockKeyboard s)) s

/-- PLCR moves the cursor to an operand below N (R177). -/
def placeCursor (s : State) : State :=
  if s.formN ≤ (takenOperand s).toNat then finishDirective .refusedRange s
  else finishDirective .done (setCursor (takenOperand s).toNat s)

/-- PLCR (R177). -/
def execPlcr (s : State) : Host.Outcome State Fault Refusal := directiveRow .plcr placeCursor s

/-- GMOD and GUNP: the abort mark is cleared at the taking; refused in LIMIT or with no RETURN window; the list
is opened with key code 00h (R178). -/
def gatherFields (s : State) : State :=
  let s1 := { s with composer.abortMark := false }
  if s1.map.state = .limit ∨ hasReturn s1 = false then finishDirective .refusedState s1
  else
    resume (openList { s1 with composer.keyCode := 0x00#8, composer.cursorAtSend := s1.composer.cursor })

/-- GMOD (R178). -/
def execGmod (s : State) : Host.Outcome State Fault Refusal := directiveRow .gmod gatherFields s
/-- GUNP (R178). -/
def execGunp (s : State) : Host.Outcome State Fault Refusal := directiveRow .gunp gatherFields s

/-- RMOD runs the clear-modified pass; refused in LIMIT (R179). -/
def resetModified (s : State) : State :=
  if s.map.state = .limit then finishDirective .refusedState s else resume (startClearPass s)

/-- RMOD (R179). -/
def execRmod (s : State) : Host.Outcome State Fault Refusal := directiveRow .rmod resetModified s

/-- CLIN runs the erase pass; refused in LIMIT (R179). -/
def clearInput (s : State) : State :=
  if s.map.state = .limit then finishDirective .refusedState s else resume (startErase s)

/-- CLIN (R179). -/
def execClin (s : State) : Host.Outcome State Fault Refusal := directiveRow .clin clearInput s

/-- RBLD: the composer is PAUSED, its working table the table at the taking (R127, work that writes no cell), and
the rebuild starts (R180). The other directives that write no cell end in the event of their taking. -/
def rebuildMap (s : State) : State :=
  startRebuild { s with composer.engine := .paused, composer.workingTable := some s.map.table }

/-- RBLD (R180). -/
def execRbld (s : State) : Host.Outcome State Fault Refusal := directiveRow .rbld rebuildMap s

/-- The slots of the SCAN tokens of a list become FREE (R113). -/
def freeTokens : List Token → State → State
  | [], s => s
  | t :: r, s => freeTokens r (freeTokenSlot t s)

/-- FLSH empties the queue (R113, R181). -/
def flushQueue (s : State) : State := finishDirective .done { freeTokens s.queue s with queue := [] }

/-- FLSH (R181). -/
def execFlsh (s : State) : Host.Outcome State Fault Refusal := directiveRow .flsh flushQueue s

end Sys2Proof.Machine
end

