-- ==== Sys2Proof/Machine/Scan.lean ====
section
/-! DEFINITION. The scan collector and the keying timer (chapter 5). -/

namespace Sys2Proof.Machine

/-! ### Frames of a scan (R94 to R96) -/

/-- A frame carries a parity or a framing error. -/
def frameBad (fr : FrameResult) : Bool := fr.parityError || fr.framingError

/-- A terminator frame (R94): FFh means there is none. -/
def isTerminator (fr : FrameResult) (s : State) : Bool :=
  s.terminator != 0xFF#8 && fr.code == s.terminator && !frameBad fr

/-- The gap compare is armed for the gap limit from the frame's capture (R96). -/
def armGap (s : State) : State := { s with timer.gap := some (s.timer.counter + s.timer.gapLimit) }

/-- A slot with a frame judged and stored (R96). -/
def storeFrame (fr : FrameResult) (v : ScanSlot) : ScanSlot :=
  { v with
    chars := if v.chars.length < Config.slotSize then v.chars ++ [fr.code] else v.chars
    overflow := v.overflow || decide (Config.slotSize ≤ v.chars.length)
    illegal := v.illegal || !isDataCode fr.code
    parity := v.parity || fr.parityError
    framing := v.framing || fr.framingError }

/-- A frame appended to the COLLECTING slot (R96). -/
def appendFrame (i : Fin 4) (fr : FrameResult) (s : State) : State :=
  armGap { s with slots := setSlot s.slots i (storeFrame fr (getSlot s.slots i)) }

/-- A claimed slot: COLLECTING, length 0, flags clear (R95). -/
def claimedSlot : ScanSlot := { ScanSlot.cold with state := .collecting }

/-- A scan starts: the lowest FREE slot is claimed, or the scan is lost (R95; its first frame arms the gap
compare, log 17). -/
def startScan (fr : FrameResult) (s : State) : State :=
  match lowestFree s.slots with
  | some i =>
    appendFrame i fr { s with collecting := .collecting i, slots := setSlot s.slots i claimedSlot }
  | none => armGap (count .lost (offer .loss { s with collecting := .losing }))

/-! ### The end of a scan (R97 to R101) -/

/-- A dropped scan (R100). -/
def dropScan (i : Fin 4) (s : State) : State := toneTrigger (count .scanDrop (offer .scanDrop (freeSlot i s)))

/-- The holdoff armed from the scan's stamp, or disarmed when it is 0 (R101). -/
def armHoldoff (stamp : Word) (t : Timer) : Timer :=
  if t.holdoffTicks = 0#16 then { t with holdoff := none } else { t with holdoff := some (stamp + t.holdoffTicks) }

/-- An accepted scan (R101). -/
def acceptScan (i : Fin 4) (stamp : Word) (s : State) : State :=
  { markSlot i .ready s with
    claimOrder := s.claimOrder ++ [⟨.slot i, true⟩]
    record := { valid := s.timer.holdoffTicks != 0#16, chars := (getSlot s.slots i).chars }
    timer := armHoldoff stamp s.timer }

/-- An error mark is set (R99). -/
def slotMarked (v : ScanSlot) : Bool := v.parity || v.framing || v.illegal || v.overflow

/-- The scan repeats the last-accepted record (R99). -/
def isDuplicate (v : ScanSlot) (s : State) : Bool := s.record.valid && v.chars == s.record.chars

/-- A scan that ended in slot i is judged (R99). -/
def judgeScan (i : Fin 4) (stamp : Word) (s : State) : State :=
  if slotMarked (getSlot s.slots i) || isDuplicate (getSlot s.slots i) s then dropScan i s
  else acceptScan i stamp s

/-- The scan in progress ends with its stamp (R97, R98). -/
def endScan (stamp : Word) (s : State) : State :=
  let s1 := { s with collecting := .none }
  match s.collecting with
  | .none => s1
  | .losing => s1
  | .collecting i =>
    judgeScan i stamp { s1 with slots := setSlot s1.slots i { getSlot s1.slots i with stamp := some stamp } }

/-- A terminator frame with a scan in progress (R97). -/
def terminateScan (s : State) : State := endScan s.timer.counter { s with timer.gap := none }

/-- A frame reaches the collector (R94). -/
def collectFrame (fr : FrameResult) (s : State) : State :=
  match s.collecting with
  | .none => if isTerminator fr s then s else startScan fr s
  | .collecting i => if isTerminator fr s then terminateScan s else appendFrame i fr s
  | .losing => if isTerminator fr s then terminateScan s else armGap s

/-! ### Expiries (R90, R91, R98, R102) -/

/-- A compare is due: armed with the counter's value (R90). -/
def dueNow (c : Option Word) (s : State) : Bool := c == some s.timer.counter

/-- The gap compare expires (R98). -/
def gapExpiry (s : State) : State := endScan s.timer.counter { s with timer.gap := none }

/-- The holdoff compare expires (R102). -/
def holdoffExpiry (s : State) : State := { s with timer.holdoff := none, record.valid := false }

/-- The tone compare expires (R91). -/
def toneExpiry (s : State) : State := { s with timer.toneCompare := none, tone := false }

/-- GAP_COMPARE_EXPIRY (R98). -/
def execGapCompareExpiry (s : State) : Host.Outcome State Fault Refusal := event (dueNow s.timer.gap s) gapExpiry s

/-- HOLDOFF_COMPARE_EXPIRY (R102). -/
def execHoldoffCompareExpiry (s : State) : Host.Outcome State Fault Refusal :=
  event (dueNow s.timer.holdoff s) holdoffExpiry s

/-- TONE_COMPARE_EXPIRY (R91). -/
def execToneCompareExpiry (s : State) : Host.Outcome State Fault Refusal :=
  event (dueNow s.timer.toneCompare s) toneExpiry s

/-! ### The tick (R89) -/

/-- The gap expiry, if it is due. -/
def gapIfDue (s : State) : State := if dueNow s.timer.gap s then gapExpiry s else s
/-- The holdoff expiry, if it is due. -/
def holdoffIfDue (s : State) : State := if dueNow s.timer.holdoff s then holdoffExpiry s else s
/-- The tone expiry, if it is due. -/
def toneIfDue (s : State) : State := if dueNow s.timer.toneCompare s then toneExpiry s else s

/-- The gap and holdoff expiries still due: where both are, either order (R102), by the free value (log 8). -/
def scanExpiries (s : State) : State :=
  if dueNow s.timer.gap s && dueNow s.timer.holdoff s then
    let s1 := { s with freeIndex := s.freeIndex + 1 }
    if Config.holdoffFirst s.freeIndex then gapIfDue (holdoffIfDue s1) else holdoffIfDue (gapIfDue s1)
  else holdoffIfDue (gapIfDue s)

/-- The counter rises by one, from 65535 to 0 (R89); the claims waiting become those of an earlier tick (R108). -/
def nextTick (s : State) : State :=
  { s with
    timer.counter := s.timer.counter + 1#16
    claimOrder := s.claimOrder.map (fun c => { c with fresh := false }) }

/-- A tick: the expiries of the tick that ends, if they were not taken, come before it (log 8). -/
def tick (s : State) : State := nextTick (scanExpiries (toneIfDue s))

/-- KEYING_TIMER_TICK (R89): the counter is held while cold reset is asserted (R200). -/
def execKeyingTimerTick (s : State) : Host.Outcome State Fault Refusal := event (!s.coldAsserted) tick s

end Sys2Proof.Machine
end

