-- ==== Sys2Proof/Machine/Lines.lean ====
section
/-! DEFINITION. The keyboard and scanner receivers: samples, framing, and the completion of a frame (chapter 4). -/

namespace Sys2Proof.Machine

/-! ### Sampling and framing (R73 to R78) -/

/-- The fixed format of the keyboard line (4.1): 8 data bits, odd parity. Its rate is 2400 bit/s (R73). -/
def keyboardFormat : LineFormat := { rate := .r2400, eight := true, parity := .odd }

/-- Number of data bits. -/
def dataBits (f : LineFormat) : Nat := if f.eight then 8 else 7

/-- The number of 1s in a code. -/
def onesOf (c : Byte) : Nat := ((List.range 8).filter (fun i => c.getLsbD i)).length

/-- The parity test fails (R76). -/
def parityFails (p : Parity) (c : Byte) (bit : Bool) : Bool :=
  match p with
  | .none => false
  | .even => (onesOf c + bit.toNat) % 2 == 1
  | .odd => (onesOf c + bit.toNat) % 2 == 0

/-- IDLE entered with line-seen-idle set (R73). -/
def idleRx (r : Receiver) : Receiver := { r with state := .idle, seenIdle := true }

/-- RECOVER entered with the run count 0 (R78). -/
def recoverRx (r : Receiver) : Receiver := { r with state := .recover, run := 0 }

/-- A start edge: sample 0, the shift stage emptied (R73). -/
def startEdge (r : Receiver) : Receiver :=
  { r with state := .startCheck, sample := 0, votes := 0, shift := 0#8, parityError := false }

/-- The code with bit b − 1 set when bit b of the frame was judged mark (R75). -/
def shiftIn (c : Byte) (b : Nat) (bit : Bool) : Byte := if bit then c ||| (1#8 <<< (b - 1)) else c

/-- Bit b of a frame has been judged (R74 to R77): the receiver after it, with the frame's result at the stop bit. -/
def judgeBit (f : LineFormat) (b : Nat) (bit : Bool) (r : Receiver) : Receiver × Option FrameResult :=
  match r.state with
  | .startCheck => (if bit then idleRx r else { r with state := .data }, none)
  | .data =>
    let r1 := { r with shift := shiftIn r.shift b bit }
    (if b < dataBits f then r1
     else
       match f.parity with
       | .none => { r1 with state := .stop }
       | .even => { r1 with state := .parity }
       | .odd => { r1 with state := .parity }, none)
  | .parity => ({ r with state := .stop, parityError := parityFails f.parity r.shift bit }, none)
  | .stop =>
    (if bit then idleRx r else recoverRx r,
     some { code := r.shift, parityError := r.parityError, framingError := !bit })
  | .idle => (r, none)
  | .recover => (r, none)

/-- A sample inside a frame: bit b is judged on samples 16b + 7, 16b + 8 and 16b + 9, two or three of them
giving its value (R74). -/
def frameSample (f : LineFormat) (mark : Bool) (r : Receiver) : Receiver × Option FrameResult :=
  let r1 := { r with sample := r.sample + 1 }
  match r1.sample % 16 with
  | 7 => ({ r1 with votes := mark.toNat }, none)
  | 8 => ({ r1 with votes := r1.votes + mark.toNat }, none)
  | 9 => judgeBit f (r1.sample / 16) (decide (2 ≤ r1.votes + mark.toNat)) { r1 with votes := r1.votes + mark.toNat }
  | _ => (r1, none)

/-- A sample in IDLE (R73). -/
def idleSample (mark : Bool) (r : Receiver) : Receiver :=
  if mark then { r with seenIdle := true } else if r.seenIdle then startEdge r else r

/-- A sample in RECOVER: the sixteenth mark in a row ends it (R78). -/
def recoverSample (mark : Bool) (r : Receiver) : Receiver :=
  if mark then
    if r.run + 1 = 16 then idleRx { r with run := 16 } else { r with run := r.run + 1 }
  else { r with run := 0 }

/-- One sample of a line under its format. -/
def sampleRx (f : LineFormat) (mark : Bool) (r : Receiver) : Receiver × Option FrameResult :=
  match r.state with
  | .idle => (idleSample mark r, none)
  | .recover => (recoverSample mark r, none)
  | .startCheck => frameSample f mark r
  | .data => frameSample f mark r
  | .parity => frameSample f mark r
  | .stop => frameSample f mark r

/-! ### The completion of a frame (R79 to R86) -/

/-- A frame with an error offers one LINE ERROR count and the cause (R79). -/
def lineError (fr : FrameResult) (s : State) : State :=
  if frameBad fr then count .lineError (offer .lineError s) else s

/-- The keyboard receiver judges a frame's result (R80 to R83). -/
def keyboardResult (fr : FrameResult) (s : State) : State :=
  if frameBad fr then lineError fr s
  else if !isAssigned fr.code then s
  else
    match s.holding with
    | some _ => count .lost (offer .loss s)
    | none =>
      { s with
        holding := some ⟨fr.code, s.timer.counter⟩
        claimOrder := insertHeldClaim s.claimOrder }

/-- The scanner receiver hands a frame's result to the collector (R79, R85). -/
def scannerResult (fr : FrameResult) (s : State) : State := collectFrame fr (lineError fr s)

/-- The pending format becomes the line format at an entry into IDLE (R86). -/
def takeFormat (s : State) : State :=
  match s.pendingFormat with
  | some f => { s with lineFormat := f, pendingFormat := none }
  | none => s

/-- A scanner receiver that has entered IDLE takes the pending format. -/
def formatAtIdle (before : RxState) (s : State) : State :=
  if before != .idle && s.scanner.state == .idle then takeFormat s else s

/-- A receiver as the samples before a whole frame leave it: sixteen marks have ended a RECOVER (R78), and a mark
has been seen in IDLE, without which no frame starts (R73; log 9). -/
def rxBeforeFrame (r : Receiver) : Receiver :=
  { r with seenIdle := true, run := if r.state == .recover then 16 else r.run }

/-- A receiver after a frame has completed (R77). -/
def rxAfterFrame (fr : FrameResult) (r : Receiver) : Receiver :=
  let r1 := { rxBeforeFrame r with shift := fr.code, parityError := fr.parityError }
  if fr.framingError then recoverRx r1 else idleRx r1

/-! ### The commands -/

/-- A keyboard frame completes (R80). -/
def keyboardCompletes (fr : FrameResult) (s : State) : State :=
  keyboardResult fr { s with keyboard := rxAfterFrame fr s.keyboard }

/-- KEYBOARD_FRAME (R80), the samples before its completion left out (log 9). -/
def execKeyboardFrame (code : Byte) (parityError framingError : Bool) (s : State) : Host.Outcome State Fault Refusal :=
  event (!s.coldAsserted) (keyboardCompletes ⟨code, parityError, framingError⟩) s

/-- The state in which a scanner frame starts: a receiver in RECOVER has first returned to IDLE (log 9). -/
def beforeScannerFrame (s : State) : State := if s.scanner.state == .recover then takeFormat s else s

/-- A frame the format can give: with 7 data bits the code is below 80h, and without parity there is no parity
error (R75, R76). -/
def frameFits (f : LineFormat) (fr : FrameResult) : Bool :=
  (f.eight || decide (fr.code.toNat < 0x80)) && !(fr.parityError && f.parity == .none)

/-- A scanner frame completes (R85); the receiver's entry into IDLE takes the pending format. -/
def scannerCompletes (fr : FrameResult) (s : State) : State :=
  let s1 := beforeScannerFrame s
  scannerResult fr
    (formatAtIdle .stop { s1 with scanner := rxAfterFrame fr s1.scanner })

/-- SCANNER_FRAME (R94), the samples before its completion left out (log 9). -/
def execScannerFrame (code : Byte) (parityError framingError : Bool) (s : State) : Host.Outcome State Fault Refusal :=
  event (!s.coldAsserted && frameFits (beforeScannerFrame s).lineFormat ⟨code, parityError, framingError⟩)
    (scannerCompletes ⟨code, parityError, framingError⟩) s

/-- A sample of KBD RX. -/
def keyboardSample (mark : Bool) (s : State) : State :=
  let x := sampleRx keyboardFormat mark s.keyboard
  let s1 := { s with keyboard := x.1 }
  match x.2 with
  | some fr => keyboardResult fr s1
  | none => s1

/-- A sample of SCN RX. -/
def scannerSample (mark : Bool) (s : State) : State :=
  let x := sampleRx s.lineFormat mark s.scanner
  let s1 := formatAtIdle s.scanner.state { s with scanner := x.1 }
  match x.2 with
  | some fr => scannerResult fr s1
  | none => s1

/-- A sample of a line (R73). -/
def lineSampled (line : Line) (mark : Bool) (s : State) : State :=
  match line with
  | .kbd => keyboardSample mark s
  | .scn => scannerSample mark s

/-- LINE_SAMPLE (R73): the receivers take no samples while cold reset is asserted (R87). -/
def execLineSample (line : Line) (level : Level) (s : State) : Host.Outcome State Fault Refusal :=
  event (!s.coldAsserted) (lineSampled line (level == .mark)) s

end Sys2Proof.Machine
end

