-- ==== Sys2Proof/Machine/Queue.lean ====
section
/-! DEFINITION. The verdict on the head of the token queue (chapter 6, R110 to R117, R132, R149). -/

namespace Sys2Proof.Machine

/-- The map state is CURRENT or LIMIT (R110). -/
def mapSettled (s : State) : Bool := s.map.state == .current || s.map.state == .limit

/-- No work waits ahead of the head: the composer is IDLE, no apply waits, no directive is PENDING (R110, R124). -/
def composerFree (s : State) : Bool :=
  s.composer.engine == .idle && !s.setup.applyWaits && s.report.intake.state != .pending

/-- The head token is offered for a verdict (R110). -/
def headOffered (s : State) : Bool :=
  !s.queue.isEmpty && composerFree s && s.setup.state == .active && mapSettled s

/-- The typeahead option of the active setup (R119). -/
def typeahead (s : State) : Bool :=
  match s.setup.active with
  | some u => typeaheadOn u
  | none => false

/-- The token is a send key (R123). -/
def isSendToken : Token → Bool
  | .key c => isSendCode c
  | .scan _ => false

/-- The slot of a SCAN token taken for application becomes TAKEN (R112). -/
def takeSlot (t : Token) (s : State) : State :=
  match t with
  | .key _ => s
  | .scan i => markSlot i .taken s

/-- A send key holds its code and the cursor at its taking, and clears the abort mark (R149). -/
def noteSend (t : Token) (s : State) : State :=
  match t with
  | .key c =>
    if isSendCode c then
      { s with composer.keyCode := c, composer.cursorAtSend := s.composer.cursor, composer.abortMark := false }
    else s
  | .scan _ => s

/-- A token carried out in LIMIT: an arrow key or RST (R132). -/
def worksInLimit : Token → Bool
  | .key c => isArrowCode c || c == 0x8F#8
  | .scan _ => false

/-- A token is taken for application (R112, R124): in LIMIT most are refused at the taking (R132). The working table is
the table at the taking for every token; one that takes hold has its own from its working lookup on (R127, log 25). -/
def takeToken (t : Token) (rest : List Token) (s : State) : State :=
  let s1 :=
    noteSend t
      (takeSlot t
        { s with
          queue := rest
          composer.engine := if isSendToken t then .send else .token
          composer.work := .token t
          composer.begun := false
          composer.workingTable := some s.map.table })
  if s.map.state = .limit ∧ worksInLimit t = false then refuse .formatLimit s1 else s1

/-- A token is taken and discarded (R112). -/
def discardToken (t : Token) (rest : List Token) (s : State) : State :=
  toneTrigger (count .discard (freeTokenSlot t { s with queue := rest }))

/-- The verdict on the head (R111). -/
def headVerdict (s : State) : State :=
  match s.queue with
  | [] => s
  | t :: rest =>
    match s.lock with
    | .opened => takeToken t rest s
    | .system _ => if typeahead s then s else discardToken t rest s
    | .error _ => if t = .key 0x8F#8 then { s with queue := rest, lock := .opened } else discardToken t rest s

/-- HEAD_VERDICT (R111). -/
def execHeadVerdict (s : State) : Host.Outcome State Fault Refusal := event (headOffered s) headVerdict s

end Sys2Proof.Machine
end

