-- ==== Sys2Proof/Machine/TransferPath.lean ====
section
/-! DEFINITION. The transfer path: a processor transfer from its arrival to its completion, the arbiter's grants,
and the taking of a posting (chapter 3). -/

namespace Sys2Proof.Machine

/-! ### Arrival (R48, R52) -/

/-- A processor transfer arrives when none is in hand, and is decided (R48, R52). -/
def execProcessorTransfer (t : Transfer) (s : State) : Host.Outcome State Fault Refusal :=
  event s.inHand.isNone (takeIn t) s

/-! ### Grants (R67 to R69) -/

/-- The highest internal claimant that waits (R67): setup unit, report unit, composer or field map. -/
def internalClaim (s : State) : Option PortTransfer :=
  match s.setupClaim with
  | some t => some t
  | none =>
    match s.reportClaim with
    | some t => some t
    | none => s.composerClaim

/-- The processor transfer that waits for a grant, with its route. -/
def processorClaim (s : State) : Option (Transfer × Route) :=
  match s.inHand with
  | none => none
  | some h =>
    match h.standing with
    | .waiting r => some (h.transfer, r)
    | .held _ => none
    | .granted => none

/-- The data lines of a transfer. -/
def dataOf (t : Transfer) : Word :=
  match t.access with
  | .read => 0#16
  | .write w => w

/-- What a transfer passed as issued does at memory. -/
def issuedOp (t : Transfer) : MemOp :=
  match t.access with
  | .read => .read
  | .write w => .write t.lanes w

/-- The transfer the port carries for a processor transfer granted on a route (R61, R65, R69). -/
def grantedTransfer (t : Transfer) (r : Route) : PortTransfer :=
  match r with
  | .pass i => { owner := .processor i false true, addr := t.addr, op := issuedOp t, orphan := false }
  | .maskedRead => { owner := .processor none true true, addr := t.addr, op := .read, orphan := false }
  | .merge => { owner := .mergeRead t.lanes (dataOf t) true, addr := t.addr, op := .read, orphan := false }

/-- A grant to the processor: the fairness count rises if an internal claimant waits, else it is set to 0 (R68). -/
def grantProcessor (t : Transfer) (r : Route) (s : State) : State :=
  { s with
    inHand := some ⟨t, .granted⟩
    port := some (grantedTransfer t r)
    fairness := if (internalClaim s).isSome then s.fairness + 1 else 0 }

/-- A grant to the highest internal claimant, with the fairness count set to 0 (R67, R68). -/
def grantInternal (s : State) : State :=
  match s.setupClaim with
  | some t => { s with port := some t, setupClaim := none, fairness := 0 }
  | none =>
    match s.reportClaim with
    | some t => { s with port := some t, reportClaim := none, fairness := 0 }
    | none =>
      match s.composerClaim with
      | some t => { s with port := some t, composerClaim := none, fairness := 0 }
      | none => s

/-- The processor is granted: the count is below 8, or no internal claimant waits (R67, log 16). -/
def processorFirst (s : State) : Bool :=
  decide (s.fairness < Config.fairnessLimit) || (internalClaim s).isNone

/-- The arbiter grants one waiting claimant (R67). -/
def portGrant (s : State) : State :=
  match processorClaim s with
  | some (t, r) => if processorFirst s then grantProcessor t r s else grantInternal s
  | none => grantInternal s

/-- A grant is made when the port is free and a claimant waits. -/
def grantDue (s : State) : Bool :=
  s.port.isNone && ((processorClaim s).isSome || (internalClaim s).isSome)

/-- MEMORY_PORT_GRANT (R67). -/
def execMemoryPortGrant (s : State) : Host.Outcome State Fault Refusal := event (grantDue s) portGrant s

/-! ### Completion (R48, R65, R66, R72) -/

/-- The port becomes free and memory takes the transfer's write. -/
def portDone (t : PortTransfer) (s : State) : State := { s with mem := memAfter s.mem t, port := none }

/-- The transfer in hand leaves once granted; one that arrived after a warm reset stays. -/
def leaveHand (s : State) : State :=
  match s.inHand with
  | none => s
  | some h =>
    match h.standing with
    | .granted => { s with inHand := none }
    | .waiting _ => s
    | .held _ => s

/-- Ready is given, unless a warm reset has taken the transfer's requester away (R48, R72). -/
def giveReady (owed : Bool) (a : Answer) (s : State) : State :=
  if owed then { leaveHand s with answer := some a } else leaveHand s

/-- The word a read gives: under masking of the word read a data cell gives 0020h (R15, R60). -/
def readAnswer (masked : Bool) (w : Word) : Word := if masked && !isMark w then 0x0020#16 else w

/-- The answer of a completed transfer. -/
def answerOf (masked : Bool) (op : MemOp) (w : Word) : Answer :=
  match op with
  | .read => .word (readAnswer masked w)
  | .write _ _ => .written

/-- A write completed at a form-area cell is handed to upkeep with the cell's whole new value (R11, R52). -/
def learnWrite (a : WordAddr) (s : State) : State :=
  match s.setup.active with
  | none => s
  | some u =>
    match formPos u a with
    | some p => upkeep p (readWord s.mem a) s
    | none => s

/-- A completed transfer that wrote is handed to upkeep (R11). -/
def learnTransfer (t : PortTransfer) (s : State) : State :=
  match t.op with
  | .read => s
  | .write _ _ => learnWrite t.addr s

/-- The setup unit takes a value written to the apply word (R193). -/
def requestApply (v : Word) (s : State) : State :=
  match s.setup.state with
  | .applying => s
  | .unset => ask s
  | .active => ask s
where
  /-- A nonzero value requests an apply. -/
  ask (s : State) : State :=
    if v = 0#16 then s
    else { s with setup.prior := s.setup.state, setup.state := .applying, setup.applyWaits := true }

/-- The apply-word watch (R66): a word write to the apply word, while cold reset is not asserted. -/
def watchApply (a : WordAddr) (l : Lanes) (v : Word) (s : State) : State :=
  if !s.coldAsserted && l == .word && a == setupAddr s.setup.strap 31 then requestApply v s else s

/-- A word write handed to the report unit (R65). -/
def handReport (i : Option (Fin 32)) (v : Word) (s : State) : State :=
  match i with
  | none => s
  | some i => reportWrite i v s

/-- What the blocks learn of a completed processor write (R52, R65, R66). -/
def tellBlocks (i : Option (Fin 32)) (t : PortTransfer) (s : State) : State :=
  match t.op with
  | .read => s
  | .write l v => watchApply t.addr l v (handReport i v (learnWrite t.addr s))

/-- A posting of EMPTY that waited for the transfer is taken (R53, log 7). -/
def takeOwedEmpty (s : State) : State :=
  if s.posting = some .empty then takePosting .empty s else s

/-- A processor transfer has completed at memory. -/
def processorDone (i : Option (Fin 32)) (masked owed : Bool) (t : PortTransfer) (s : State) : State :=
  let s1 := portDone t s
  takeOwedEmpty (tellBlocks i t (giveReady owed (answerOf masked t.op (readWord s1.mem t.addr)) s1))

/-- The completion of the processor transfer on the port. -/
def transferDone (s : State) : State :=
  match s.port with
  | none => s
  | some t =>
    if t.orphan then portDone t s
    else
      match t.owner with
      | .processor i masked owed => processorDone i masked owed t s
      | .mergeWrite owed => processorDone none false owed t s
      | .mergeRead _ _ _ => s
      | .setupRead => s
      | .setupResult => s
      | .setupClear => s
      | .status => s
      | .composer => s
      | .mapScan => s

/-- The port carries a processor transfer other than a merge's read. -/
def carriesProcessor (s : State) : Bool :=
  match s.port with
  | none => false
  | some t =>
    match t.owner with
    | .processor _ _ _ => true
    | .mergeWrite _ => true
    | .mergeRead _ _ _ => false
    | .setupRead => false
    | .setupResult => false
    | .setupClear => false
    | .status => false
    | .composer => false
    | .mapScan => false

/-- PROCESSOR_TRANSFER_COMPLETION (R48). -/
def execProcessorTransferCompletion (s : State) : Host.Outcome State Fault Refusal :=
  event (carriesProcessor s) transferDone s

/-! ### The byte merge (R61, R69) -/

/-- The whole-cell value: the written byte in the selected lane, the byte read in the other (R61). -/
def mergedWord (l : Lanes) (data old : Word) : Word :=
  match l with
  | .low => (old &&& 0xFF00#16) ||| (data &&& 0x00FF#16)
  | .high => (old &&& 0x00FF#16) ||| (data &&& 0xFF00#16)
  | .word => data

/-- The merge's write takes the port ahead of every claimant, the fairness count unchanged (R69). A merge whose read
was granted before a cold reset makes no write (log 13). -/
def mergeReadDone (s : State) : State :=
  match s.port with
  | none => s
  | some t =>
    match t.owner with
    | .mergeRead l data owed =>
      if t.orphan then portDone t s
      else
        { s with
          port :=
            some
              { owner := .mergeWrite owed, addr := t.addr,
                op := .write .word (mergedWord l data (readWord s.mem t.addr)), orphan := false } }
    | .processor _ _ _ => s
    | .mergeWrite _ => s
    | .setupRead => s
    | .setupResult => s
    | .setupClear => s
    | .status => s
    | .composer => s
    | .mapScan => s

/-- The port carries a merge's read. -/
def carriesMergeRead (s : State) : Bool :=
  match s.port with
  | none => false
  | some t =>
    match t.owner with
    | .mergeRead _ _ _ => true
    | .processor _ _ _ => false
    | .mergeWrite _ => false
    | .setupRead => false
    | .setupResult => false
    | .setupClear => false
    | .status => false
    | .composer => false
    | .mapScan => false

/-- MERGE_READ_COMPLETION (R61). -/
def execMergeReadCompletion (s : State) : Host.Outcome State Fault Refusal :=
  event (carriesMergeRead s) mergeReadDone s

/-! ### Taking a posting (R53, R54) -/

/-- The posting is taken, and the composer goes on if it waited for it (R53, R127, R146, R151). -/
def postingTaken (s : State) : State :=
  match s.posting with
  | none => s
  | some r =>
    let s1 := takePosting r s
    match s1.composer.todo with
    | .post _ :: rest => resume (setTodo rest s1)
    | _ => s1

/-- HELD_RANGE_POSTING (R53): taken when no granted processor transfer is in flight. -/
def execHeldRangePosting (s : State) : Host.Outcome State Fault Refusal :=
  event (s.posting.isSome && !s.processorInFlight) postingTaken s

end Sys2Proof.Machine
end

