-- ==== Sys2Proof/Machine/Tokens.lean ====
section
/-! DEFINITION. The tokens under OPEN (chapter 7, section 7.3) and the send keys (chapter 8): each row begins the
token that the verdict has taken (log 6). -/

namespace Sys2Proof.Machine

/-- The current work is a token not yet begun, with that property. -/
def tokenWaits (p : Token → Bool) (s : State) : Bool :=
  match s.composer.work with
  | .token t => p t && !s.composer.begun && (s.composer.engine == .token || s.composer.engine == .send)
  | .none => false
  | .directive _ _ => false
  | .apply => false

/-- The token is a KEY token with that code. -/
def isKey (code : Byte) (t : Token) : Bool := t == .key code

/-- A token's row: when such a token waits it is begun. -/
def tokenRow (p : Token → Bool) (f : State → State) (s : State) : Host.Outcome State Fault Refusal :=
  event (tokenWaits p s) (fun s => f { s with composer.begun := true }) s

/-! ### Arrow keys (R135) -/

/-- The cursor moves and the token ends. -/
def moveCursor (x : Nat) (s : State) : State := endWork (setCursor x s)

/-- CUR (R30, R135). -/
def execCur (s : State) : Host.Outcome State Fault Refusal :=
  tokenRow (isKey 0x80#8) (fun s => moveCursor (cursorRight s.formN s.composer.cursor) s) s
/-- CUL (R30, R135). -/
def execCul (s : State) : Host.Outcome State Fault Refusal :=
  tokenRow (isKey 0x81#8) (fun s => moveCursor (cursorLeft s.formN s.composer.cursor) s) s
/-- CUU (R30, R135). -/
def execCuu (s : State) : Host.Outcome State Fault Refusal :=
  tokenRow (isKey 0x82#8) (fun s => moveCursor (cursorUp s.formN s.formC s.composer.cursor) s) s
/-- CUD (R30, R135). -/
def execCud (s : State) : Host.Outcome State Fault Refusal :=
  tokenRow (isKey 0x83#8) (fun s => moveCursor (cursorDown s.formN s.formC s.composer.cursor) s) s

/-! ### Field-moving keys (R136) -/

/-- A field-moving key: hold of the field being left when exit processing may run, else the move (log 25). -/
def beginMove (code : Byte) (s : State) : State :=
  let dest := moverDest s code s.workingFields s.composer.cursor
  if exitDue s.formN s.workingFields s.composer.cursor dest then resume (takeHold s) else moveCursor dest s

/-- HOM (R34, R136). -/
def execHom (s : State) : Host.Outcome State Fault Refusal := tokenRow (isKey 0x84#8) (beginMove 0x84#8) s
/-- TAB (R31, R136). -/
def execTab (s : State) : Host.Outcome State Fault Refusal := tokenRow (isKey 0x85#8) (beginMove 0x85#8) s
/-- BTB (R32, R136). -/
def execBtb (s : State) : Host.Outcome State Fault Refusal := tokenRow (isKey 0x86#8) (beginMove 0x86#8) s
/-- NLN (R33, R136). -/
def execNln (s : State) : Host.Outcome State Fault Refusal := tokenRow (isKey 0x87#8) (beginMove 0x87#8) s

/-! ### Backspace, Insert, Reset (R137) -/

/-- BSP moves back one cell within an unprotected field. -/
def backspace (s : State) : State :=
  match fieldAt s.workingFields s.composer.cursor with
  | some f =>
    if isDataOf s.formN f s.composer.cursor && 0 < offsetOf s.formN f s.composer.cursor && !isProtected f.word then
      moveCursor (cursorLeft s.formN s.composer.cursor) s
    else endWork s
  | none => endWork s

/-- BSP (R137). -/
def execBsp (s : State) : Host.Outcome State Fault Refusal := tokenRow (isKey 0x88#8) backspace s
/-- INS (R137). -/
def execIns (s : State) : Host.Outcome State Fault Refusal :=
  tokenRow (isKey 0x8A#8) (fun s => endWork { s with composer.insertMode := !s.composer.insertMode }) s
/-- RST under OPEN (R137). -/
def execRst (s : State) : Host.Outcome State Fault Refusal :=
  tokenRow (isKey 0x8F#8) (fun s => endWork (insertOff s)) s

/-! ### Tokens that take hold (R133, R138, R139, R142 to R145) -/

/-- The token takes hold of the cursor's field (R127). -/
def beginHold (s : State) : State := resume (takeHold s)

/-- DATA_CHARACTER (R133, R134). -/
def execDataCharacter (s : State) : Host.Outcome State Fault Refusal :=
  tokenRow (fun t => match t with | .key c => isDataCode c | .scan _ => false) beginHold s
/-- DEL (R138). -/
def execDel (s : State) : Host.Outcome State Fault Refusal := tokenRow (isKey 0x89#8) beginHold s
/-- EEF (R139). -/
def execEef (s : State) : Host.Outcome State Fault Refusal := tokenRow (isKey 0x8B#8) beginHold s
/-- FEX (R142). -/
def execFex (s : State) : Host.Outcome State Fault Refusal := tokenRow (isKey 0x8D#8) beginHold s
/-- FMN (R143). -/
def execFmn (s : State) : Host.Outcome State Fault Refusal := tokenRow (isKey 0x8E#8) beginHold s
/-- SCAN_TOKEN (R144, R145). -/
def execScanToken (s : State) : Host.Outcome State Fault Refusal :=
  tokenRow (fun t => match t with | .key _ => false | .scan _ => true) beginHold s

/-! ### Erase Input and the send keys (R140, R149, R150, R154) -/

/-- The erase pass begins (R140, R154). -/
def beginErase (s : State) : State := resume (startErase s)

/-- EIN (R140). -/
def execEin (s : State) : Host.Outcome State Fault Refusal := tokenRow (isKey 0x8C#8) beginErase s

/-- ENT and F1 to F12: hold of the cursor's field when exit processing may run, else the validation walk
(R150, R151). -/
def beginSend (s : State) : State :=
  resume
    (match s.lookup s.composer.cursor with
     | some f => if sendExitDue s.formN f s.composer.cursor then takeHold s else startWalk .validate s
     | none => startWalk .validate s)

/-- ENT (R149). -/
def execEnt (s : State) : Host.Outcome State Fault Refusal := tokenRow (isKey 0xC0#8) beginSend s
/-- F1_TO_F12 (R149). -/
def execF1ToF12 (s : State) : Host.Outcome State Fault Refusal :=
  tokenRow (fun t => match t with | .key c => 0xC1 ≤ c.toNat && c.toNat ≤ 0xCC | .scan _ => false) beginSend s
/-- CLR (R154). -/
def execClr (s : State) : Host.Outcome State Fault Refusal := tokenRow (isKey 0xCF#8) beginErase s

/-! ### Transfers of the composer (R130, R164) -/

/-- The port carries a transfer of the composer. -/
def carriesComposer (s : State) : Bool :=
  match s.port with
  | none => false
  | some t => t.owner == .composer

/-- An aborted list's last word was the end of an entry: the entry counts (R164). -/
def countIfWhole (s : State) : State :=
  match s.composer.todo with
  | .call (.entryWritten size) :: _ => countEntry size s
  | _ => s

/-- The gather is one a warm reset ends now (R163). -/
def abortDue (s : State) : Bool :=
  s.composer.abortMark && (s.composer.listPhase == .walking || s.composer.listPhase == .closing)

/-- The composer goes on: with the list's abort when that is due, else with its work. -/
def carryComposer (s : State) : State := if abortDue s then resume (abortList (countIfWhole s)) else resume s

/-- The head of the work has completed at memory, with the word read if it was a read. An erased cell that is
not null is written next (R139, R140). -/
def opDone (op : Op) (rest : List Op) (w : Word) (s : State) : State :=
  match op with
  | .read _ => setTodo rest { s with composer.buffer := w :: s.composer.buffer }
  | .write _ _ => setTodo rest s
  | .writeBack _ => setTodo rest s
  | .eraseCell p => if w = 0x0000#16 then setTodo rest s else setTodo (.write p 0x0000#16 :: rest) s
  | .list _ _ => setTodo rest s
  | .post _ => s
  | .call _ => s

/-- A transfer of the composer has completed; a write reaches upkeep (R11). -/
def composerDone (s : State) : State :=
  match s.port with
  | none => s
  | some t =>
    let s1 := portDone t s
    if t.orphan then s1
    else
      let s2 := learnTransfer t s1
      match s2.composer.todo with
      | [] => s2
      | op :: rest => carryComposer (opDone op rest (readWord s1.mem t.addr) s2)

/-- COMPOSER_TRANSFER_COMPLETION (R130). -/
def execComposerTransferCompletion (s : State) : Host.Outcome State Fault Refusal :=
  event (carriesComposer s) composerDone s

end Sys2Proof.Machine
end

