-- ==== Sys2Proof/Machine/Reset.lean ====
section
/-! DEFINITION. The reset inputs (R200, R201 and each block's own rule). -/

namespace Sys2Proof.Machine

/-- A transfer granted before cold reset completes at memory, its requester not taking its result (R71). -/
def orphaned (t : PortTransfer) : PortTransfer := { t with orphan := true }

/-- The transfer in hand at cold reset: one that waits is decided anew as a plain pass, one held is abandoned,
one granted is the port's (R71, log 13). -/
def handAtCold (h : InHand) : Option InHand :=
  match h.standing with
  | .waiting _ => some ⟨h.transfer, .waiting (.pass none)⟩
  | .held _ => none
  | .granted => none

/-- The assertion of COLD RESET (R200): every block at its cold-reset values, memory and the straps' last value
as they were. -/
def coldState (s : State) : State :=
  { State.reset with
    coldAsserted := true
    mem := s.mem
    inHand := s.inHand.bind handAtCold
    port := s.port.map orphaned
    setup.strap := s.setup.strap
    freeIndex := s.freeIndex
    pending := s.pending }

/-- COLD_RESET (R200). -/
def execColdReset (s : State) : Host.Outcome State Fault Refusal :=
  .next (if s.coldAsserted then s else coldState s)

/-- The end of cold reset: the straps are sampled (R191, R200). -/
def coldEnded (straps : BitVec 4) (s : State) : State := { s with coldAsserted := false, setup.strap := straps }

/-- COLD_RESET_END (R200). -/
def execColdResetEnd (straps : BitVec 4) (s : State) : Host.Outcome State Fault Refusal :=
  event s.coldAsserted (coldEnded straps) s

/-- The owner of a granted transfer whose ready is no longer owed (R72). -/
def ownerAtWarm (o : Owner) : Owner :=
  match o with
  | .processor i masked _ => .processor i masked false
  | .mergeRead l d _ => .mergeRead l d false
  | .mergeWrite _ => .mergeWrite false
  | .setupRead => .setupRead
  | .setupResult => .setupResult
  | .setupClear => .setupClear
  | .status => .status
  | .composer => .composer
  | .mapScan => .mapScan

/-- The work is a send key, GMOD or GUNP (R163). -/
def sendOrGather (w : Work) : Bool :=
  match w with
  | .token (.key c) => isSendCode c
  | .token (.scan _) => false
  | .directive d _ => d == .gmod || d == .gunp
  | .none => false
  | .apply => false

/-- What each block does at the assertion of WARM RESET, but for the abort of a list (R72, R122, R163, R190). -/
def warmValues (s : State) : State :=
  driveAttn
    { s with
      inHand := none
      answer := none
      port := s.port.map (fun t => { t with owner := ownerAtWarm t.owner })
      fairness := 0
      lock := .system .start
      composer.abortMark := s.composer.abortMark || sendOrGather s.composer.work
      report.pending := 0#8
      report.seen := 0#8
      report.snapshotValid := false
      report.intake := Intake.empty
      report.operand := 0#16
      report.pulse := false }

/-- A transfer of the composer is on the port or claimed. A claim that waits at a warm reset keeps waiting and is
granted (R72). -/
def transferUnderWay (s : State) : Bool := carriesComposer s || s.composerClaim.isSome

/-- An open list is aborted at once when no transfer of the composer is under way, and else at that transfer's completion,
by carryComposer (R72, R163, R164, log 12). -/
def abortNow (s : State) : State :=
  if abortDue s && !transferUnderWay s then resume (abortList s) else s

/-- WARM_RESET (R201). -/
def execWarmReset (s : State) : Host.Outcome State Fault Refusal := event true (fun s => abortNow (warmValues s)) s

end Sys2Proof.Machine
end

