-- ==== Sys2Proof/Machine/Report.lean ====
section
/-! DEFINITION. The report unit's commands: reads and writes of the report words, the status pass and the
attention pulse (chapter 9). A write row stands alone, or is the completion of that very write (log 10). -/

namespace Sys2Proof.Machine

/-! ### Reads (R168, R185) -/

/-- A read of report word i, when the decoder gives it to the report unit (R64). -/
def readReport (i : Fin 32) (cls : AccessClass) (lanes : Lanes) (s : State) : Host.Outcome State Fault Refusal :=
  match s.setup.active with
  | none => .next s
  | some u =>
    let t : Transfer := { addr := reportAddr u i.val, lanes := lanes, cls := cls, access := .read }
    event (s.inHand.isNone && decide (decideTransfer s t = .report i)) (takeIn t) s

/-- READ_STATE_WORD (R168). -/
def execReadStateWord (cls : AccessClass) (lanes : Lanes) (s : State) : Host.Outcome State Fault Refusal :=
  readReport 0 cls lanes s

/-- READ_CAUSE_WORD (R185). -/
def execReadCauseWord (cls : AccessClass) (lanes : Lanes) (s : State) : Host.Outcome State Fault Refusal :=
  readReport 16 cls lanes s

/-! ### Writes (R65, R170) -/

/-- The port carries this word write of the processor, to be handed to report word i or to none. -/
def carriesWrite (i : Option (Fin 32)) (a : WordAddr) (v : Word) (s : State) : Bool :=
  decide (s.port = some { owner := .processor i false true, addr := a, op := .write .word v, orphan := false }) ||
    decide (s.port = some { owner := .processor i false false, addr := a, op := .write .word v, orphan := false })

/-- The bus is idle and its grant goes to the processor: the write can be admitted, granted and completed. -/
def busOpen (s : State) : Bool := s.inHand.isNone && s.port.isNone && processorFirst s

/-- A word write from its arrival to its completion. -/
def writeThrough (t : Transfer) (s : State) : State := transferDone (portGrant (takeIn t s))

/-- A word write row (log 10): the completion of this write if the port carries it; else, on an idle bus, the
whole write, when the decoder passes it with that report word. -/
def wordWriteRow (i : Option (Fin 32)) (a : WordAddr) (cls : AccessClass) (v : Word) (s : State) :
    Host.Outcome State Fault Refusal :=
  let t : Transfer := { addr := a, lanes := .word, cls := cls, access := .write v }
  if carriesWrite i a v s then event true transferDone s
  else event (busOpen s && decide (decideTransfer s t = .route (.pass i))) (writeThrough t) s

/-- A word write to report word i. -/
def reportWriteRow (i : Fin 32) (cls : AccessClass) (v : Word) (s : State) : Host.Outcome State Fault Refusal :=
  match s.setup.active with
  | none => .next s
  | some u => wordWriteRow (some i) (reportAddr u i.val) cls v s

/-- DIRECTIVE_INTAKE (R173). -/
def execDirectiveIntake (cls : AccessClass) (value : Word) (s : State) : Host.Outcome State Fault Refusal :=
  reportWriteRow 5 cls value s

/-- UNKNOWN_DIRECTIVE (R173). -/
def execUnknownDirective (cls : AccessClass) (value : Word) (s : State) : Host.Outcome State Fault Refusal :=
  reportWriteRow 5 cls value s

/-- WRITE_OPERAND (R172). -/
def execWriteOperand (cls : AccessClass) (value : Word) (s : State) : Host.Outcome State Fault Refusal :=
  reportWriteRow 6 cls value s

/-- CLEAR_COUNTER (R171): a word write of 0000h to the counter's word. -/
def execClearCounter (cls : AccessClass) (counter : Counter) (s : State) : Host.Outcome State Fault Refusal :=
  reportWriteRow (counterWord counter) cls 0#16 s

/-- CLEAR_CAUSES (R186). -/
def execClearCauses (cls : AccessClass) (value : Word) (s : State) : Host.Outcome State Fault Refusal :=
  reportWriteRow 16 cls value s

/-- REPORT_WORD_WRITE (R170). -/
def execReportWordWrite (cls : AccessClass) (word : Fin 32) (value : Word) (s : State) :
    Host.Outcome State Fault Refusal :=
  reportWriteRow word cls value s

/-! ### The status pass and the attention pulse (R183, R188) -/

/-- The port carries a write of the status pass. -/
def carriesStatus (s : State) : Bool :=
  match s.port with
  | none => false
  | some t => t.owner == .status

/-- The write completes, and the report unit claims the next cell or ends its pass (R183). -/
def statusDone (s : State) : State :=
  match s.port with
  | none => s
  | some t =>
    let s1 := portDone t s
    if t.orphan then s1
    else
      match s1.setup.active with
      | none => s1
      | some u => claimStatus u { s1 with report.statusLeft := s1.report.statusLeft.tail }

/-- STATUS_WRITE_COMPLETION (R183). -/
def execStatusWriteCompletion (s : State) : Host.Outcome State Fault Refusal :=
  event (carriesStatus s) statusDone s

/-- The running pulse ends (R188). -/
def endPulse (s : State) : State := driveAttn { s with report.pulse := false }

/-- ATTN_PULSE_END (R188). -/
def execAttnPulseEnd (s : State) : Host.Outcome State Fault Refusal := event s.report.pulse endPulse s

end Sys2Proof.Machine
end

