-- ==== Sys2Proof/Machine/Setup.lean ====
section
/-! DEFINITION. The setup unit: the apply request, the fetch, validation, the switch event and the result
(chapter 10), and the field map's rebuild scan (R19 to R21). -/

namespace Sys2Proof.Machine

/-- APPLY_REQUEST (R193): a word write to the apply word, taken by the setup unit at its completion (R66). -/
def execApplyRequest (cls : AccessClass) (value : Word) (s : State) : Host.Outcome State Fault Refusal :=
  if s.coldAsserted then .next s else wordWriteRow none (setupAddr s.setup.strap 31) cls value s

/-! ### Fetch (R194, R195) -/

/-- The setup unit's claim of a transfer on word i of the setup block. -/
def claimSetup (owner : Owner) (i : Nat) (op : MemOp) (s : State) : State :=
  { s with setupClaim := some { owner := owner, addr := setupAddr s.setup.strap i, op := op, orphan := false } }

/-- The composer takes the apply and enters PAUSED, its working table the table at the taking (R127, work that
writes no cell); the fetch begins (R194, R195). -/
def takeApply (s : State) : State :=
  claimSetup .setupRead 0 .read
    { s with
      composer.engine := .paused
      composer.work := .apply
      composer.workingTable := some s.map.table
      setup.applyWaits := false
      setup.fetched := [] }

/-- APPLY_TAKEN (R194). -/
def execApplyTaken (s : State) : Host.Outcome State Fault Refusal :=
  event (s.composer.engine == .idle && s.setup.applyWaits) takeApply s

/-! ### Validation (R196) -/

/-- Check 1: geometry. -/
def geometryFails (u : SetupBlock) : Bool :=
  setupRows u < 1 || 32 < setupRows u || setupCols u < 8 || 160 < setupCols u || 4096 < formSize u ||
    (statusRowOn u && setupCols u < 24)

/-- Check 2: return capacity. -/
def capacityFails (u : SetupBlock) : Bool := returnCapacity u < 16 || 4096 < returnCapacity u

/-- The number of windows of a kind. -/
def kindCount (u : SetupBlock) (k : WindowKind) : Nat :=
  ([0, 1, 2, 3].filter (fun w => windowKind u w == k)).length

/-- Two byte ranges, each a start and a size, share a byte. -/
def sharesByte (b1 n1 b2 n2 : Nat) : Bool := b1 < b2 + n2 && b2 < b1 + n1

/-- Bytes of the SCREEN window that hold the form area, the status row and the mirror word. -/
def screenUsed (u : SetupBlock) : Nat := 2 * (mirrorPos u + 1)

/-- The checks on one window that is not DISABLED. -/
def windowFails (strap : BitVec 4) (u : SetupBlock) (w : Nat) : Bool :=
  11 < windowSizeCode u w || windowBase u w % windowSize u w != 0 ||
    sharesByte (windowBase u w) (windowSize u w) (setupBase strap) 64 ||
    (match windowKind u w with
     | .disabled => false
     | .screen => windowSize u w < screenUsed u
     | .return =>
       windowSize u w < 2 * returnCapacity u ||
         sharesByte (windowBase u w) (windowSize u w) (screenBase u) (screenUsed u)
     | .report => sharesByte (windowBase u w) (windowSize u w) (screenBase u) (screenUsed u))

/-- Check 3: windows. -/
def windowsFail (strap : BitVec 4) (u : SetupBlock) : Bool :=
  kindCount u .screen != 1 || kindCount u .report != 1 || 1 < kindCount u .return ||
    ([0, 1, 2, 3].filter (fun w => windowKind u w != .disabled)).any (windowFails strap u)

/-- Check 4: scanner format and terminator. -/
def scannerFails (u : SetupBlock) : Bool :=
  (scannerFormat u).isNone || (0x7F < (setupTerminator u).toNat && setupTerminator u != 0xFF#8)

/-- Check 5: timer limits. -/
def limitsFail (u : SetupBlock) : Bool :=
  (setupGapLimit u).toNat < 5 || 1000 < (setupGapLimit u).toNat || 30000 < (setupHoldoff u).toNat

/-- The verdict of validation: the first check that fails decides (R196). -/
def validate (strap : BitVec 4) (u : SetupBlock) : Word :=
  if geometryFails u then 0x8001#16
  else if capacityFails u then 0x8003#16
  else if windowsFail strap u then 0x8002#16
  else if scannerFails u then 0x8004#16
  else if limitsFail u then 0x8005#16
  else 0x0001#16

/-! ### The switch event (R198) -/

/-- The new scanner format is the pending format, taken at once by an IDLE receiver (R86). -/
def offerFormat (f : LineFormat) (s : State) : State :=
  match s.scanner.state with
  | .idle => { s with lineFormat := f, pendingFormat := none }
  | _ => { s with pendingFormat := some f }

/-- The scanner format of a block that has passed validation. -/
def switchFormat (u : SetupBlock) (s : State) : State :=
  match scannerFormat u with
  | some f => offerFormat f s
  | none => s

/-- The cursor at the switch: 0 if it is at or beyond the new N (R125). -/
def keptCursor (u : SetupBlock) (x : Nat) : Nat := if x < formSize u then x else 0

/-- The values every block takes from the new setup, but for the decoder's re-decision and the rebuild:
a status pass stops, its claim not yet granted withdrawn (R183, log 29), and a new one is requested; ATTN takes
the level of the new mode, a pulse ending (R188). -/
def switchValues (u : SetupBlock) (s : State) : State :=
  driveAttn
    (switchFormat u
      { s with
        setup.active := some u
        setup.state := .active
        composer.cursor := keptCursor u s.composer.cursor
        terminator := setupTerminator u
        timer.gapLimit := setupGapLimit u
        timer.holdoffTicks := setupHoldoff u
        report.statusLeft := []
        reportClaim := none
        report.updateRequested := true
        report.pulse := false })

/-- The switch event (R198): the new values, the rebuild, and the transfer in hand decided anew (R70). -/
def switchEvent (u : SetupBlock) (s : State) : State := decideAnew (startRebuild (switchValues u s))

/-- The fetched block is judged: an accepted one is switched to, and the result is to be written (R196 to R199). -/
def judgeSetup (s : State) : State :=
  let r := validate s.setup.strap s.setup.fetched
  let s1 := if r = 0x0001#16 then switchEvent s.setup.fetched s else s
  claimSetup .setupResult 30 (.write .word r) { s1 with setup.result := some r }

/-- The port carries a transfer of that owner. -/
def carriesOwner (o : Owner) (s : State) : Bool :=
  match s.port with
  | none => false
  | some t => t.owner == o

/-- A setup word has been read: it is kept, and the next is claimed or the block is judged (R195). -/
def setupReadDone (s : State) : State :=
  match s.port with
  | none => s
  | some t =>
    let s1 := portDone t s
    if t.orphan then s1
    else
      let s2 := { s1 with setup.fetched := s1.setup.fetched ++ [readWord s1.mem t.addr] }
      if s2.setup.fetched.length < 20 then claimSetup .setupRead s2.setup.fetched.length .read s2
      else judgeSetup s2

/-- SETUP_READ_COMPLETION (R195). -/
def execSetupReadCompletion (s : State) : Host.Outcome State Fault Refusal :=
  event (carriesOwner .setupRead s) setupReadDone s

/-- The result word is written, and the write of 0000h to the apply word is claimed (R197, R199). -/
def resultWordDone (s : State) : State :=
  match s.port with
  | none => s
  | some t =>
    let s1 := portDone t s
    if t.orphan then s1 else claimSetup .setupClear 31 (.write .word 0#16) s1

/-- RESULT_WORD_WRITE_COMPLETION (R197). -/
def execResultWordWriteCompletion (s : State) : Host.Outcome State Fault Refusal :=
  event (carriesOwner .setupResult s) resultWordDone s

/-- The composer leaves the PAUSED of an apply (R125). -/
def leavePause (s : State) : State :=
  match s.composer.work with
  | .apply => idleComposer s
  | .none => s
  | .token _ => s
  | .directive _ _ => s

/-- A refused apply ends: the prior state returns and the composer is IDLE (R197). -/
def applyRefused (s : State) : State := leavePause { s with setup.state := s.setup.prior }

/-- The result event (R197, R199). -/
def resultDone (s : State) : State :=
  match s.port with
  | none => s
  | some t =>
    let s1 := portDone t s
    if t.orphan then s1
    else
      let s2 := if s1.setup.result = some 0x0001#16 then s1 else applyRefused s1
      offer .setupResult { s2 with setup.fetched := [], setup.result := none }

/-- RESULT_EVENT (R197, R199). -/
def execResultEvent (s : State) : Host.Outcome State Fault Refusal :=
  event (carriesOwner .setupClear s) resultDone s

/-! ### The rebuild scan (R19, R21) -/

/-- The scan point has advanced: the rebuild ends in CURRENT at N, else the next read is claimed. -/
def scanAdvanced (s : State) : State :=
  if s.formN ≤ s.map.scanPoint then
    rebuildEnded { s with map.state := .current, map.modified := s.map.modified && s.map.table.isEmpty }
  else claimScan s

/-- The word at the scan point has been read (R19). At a 257th mark the scan point stays at that cell (log 33). -/
def scanWord (w : Word) (s : State) : State :=
  if isMark w then
    if Config.tableSize ≤ s.map.table.length then rebuildLimit s
    else
      scanAdvanced
        { s with
          map.table := s.map.table ++ [⟨s.map.scanPoint, w⟩]
          map.modified := s.map.modified && !s.map.table.isEmpty
          map.scanPoint := s.map.scanPoint + 1 }
  else scanAdvanced { s with map.scanPoint := s.map.scanPoint + 1 }

/-- The cell at the scan point, as memory holds it (R19). -/
def scanCell (s : State) : Word :=
  match s.setup.active with
  | none => 0#16
  | some u => readWord s.mem (cellAddr u s.map.scanPoint)

/-- A read of the scan has completed. -/
def scanReadDone (s : State) : State :=
  match s.port with
  | none => s
  | some t =>
    let s1 := portDone t s
    if t.orphan then s1 else if s1.map.state = .rebuilding then scanWord (scanCell s1) s1 else s1

/-- SCAN_READ_COMPLETION (R19). -/
def execScanReadCompletion (s : State) : Host.Outcome State Fault Refusal :=
  event (carriesOwner .mapScan s) scanReadDone s

end Sys2Proof.Machine
end

