-- ==== Sys2Proof/Machine/Dispatch.lean ====
section
/-! DEFINITION. The dispatch: one arm per command. -/

namespace Sys2Proof.Machine

/-- A command's effect on everything but the queue of commands. -/
def exec (i : Instr) (s : State) : Host.Outcome State Fault Refusal :=
  match i with
  | .coldReset => Sys2Proof.Machine.execColdReset s
  | .coldResetEnd straps => Sys2Proof.Machine.execColdResetEnd straps s
  | .warmReset => Sys2Proof.Machine.execWarmReset s
  | .processorTransfer t => Sys2Proof.Machine.execProcessorTransfer t s
  | .memoryPortGrant => Sys2Proof.Machine.execMemoryPortGrant s
  | .processorTransferCompletion => Sys2Proof.Machine.execProcessorTransferCompletion s
  | .mergeReadCompletion => Sys2Proof.Machine.execMergeReadCompletion s
  | .heldRangePosting => Sys2Proof.Machine.execHeldRangePosting s
  | .readStateWord cls lanes => Sys2Proof.Machine.execReadStateWord cls lanes s
  | .readCauseWord cls lanes => Sys2Proof.Machine.execReadCauseWord cls lanes s
  | .directiveIntake cls value => Sys2Proof.Machine.execDirectiveIntake cls value s
  | .unknownDirective cls value => Sys2Proof.Machine.execUnknownDirective cls value s
  | .writeOperand cls value => Sys2Proof.Machine.execWriteOperand cls value s
  | .clearCounter cls counter => Sys2Proof.Machine.execClearCounter cls counter s
  | .clearCauses cls value => Sys2Proof.Machine.execClearCauses cls value s
  | .reportWordWrite cls word value => Sys2Proof.Machine.execReportWordWrite cls word value s
  | .applyRequest cls value => Sys2Proof.Machine.execApplyRequest cls value s
  | .applyTaken => Sys2Proof.Machine.execApplyTaken s
  | .setupReadCompletion => Sys2Proof.Machine.execSetupReadCompletion s
  | .resultWordWriteCompletion => Sys2Proof.Machine.execResultWordWriteCompletion s
  | .resultEvent => Sys2Proof.Machine.execResultEvent s
  | .scanReadCompletion => Sys2Proof.Machine.execScanReadCompletion s
  | .keyboardFrame code parityError framingError => Sys2Proof.Machine.execKeyboardFrame code parityError framingError s
  | .scannerFrame code parityError framingError => Sys2Proof.Machine.execScannerFrame code parityError framingError s
  | .gapCompareExpiry => Sys2Proof.Machine.execGapCompareExpiry s
  | .holdoffCompareExpiry => Sys2Proof.Machine.execHoldoffCompareExpiry s
  | .toneCompareExpiry => Sys2Proof.Machine.execToneCompareExpiry s
  | .headVerdict => Sys2Proof.Machine.execHeadVerdict s
  | .dataCharacter => Sys2Proof.Machine.execDataCharacter s
  | .cur => Sys2Proof.Machine.execCur s
  | .cul => Sys2Proof.Machine.execCul s
  | .cuu => Sys2Proof.Machine.execCuu s
  | .cud => Sys2Proof.Machine.execCud s
  | .hom => Sys2Proof.Machine.execHom s
  | .tab => Sys2Proof.Machine.execTab s
  | .btb => Sys2Proof.Machine.execBtb s
  | .nln => Sys2Proof.Machine.execNln s
  | .bsp => Sys2Proof.Machine.execBsp s
  | .ins => Sys2Proof.Machine.execIns s
  | .rst => Sys2Proof.Machine.execRst s
  | .del => Sys2Proof.Machine.execDel s
  | .eef => Sys2Proof.Machine.execEef s
  | .ein => Sys2Proof.Machine.execEin s
  | .fex => Sys2Proof.Machine.execFex s
  | .fmn => Sys2Proof.Machine.execFmn s
  | .scanToken => Sys2Proof.Machine.execScanToken s
  | .ent => Sys2Proof.Machine.execEnt s
  | .f1ToF12 => Sys2Proof.Machine.execF1ToF12 s
  | .clr => Sys2Proof.Machine.execClr s
  | .composerTransferCompletion => Sys2Proof.Machine.execComposerTransferCompletion s
  | .unlk => Sys2Proof.Machine.execUnlk s
  | .lock => Sys2Proof.Machine.execLock s
  | .plcr => Sys2Proof.Machine.execPlcr s
  | .gmod => Sys2Proof.Machine.execGmod s
  | .gunp => Sys2Proof.Machine.execGunp s
  | .rmod => Sys2Proof.Machine.execRmod s
  | .clin => Sys2Proof.Machine.execClin s
  | .rbld => Sys2Proof.Machine.execRbld s
  | .flsh => Sys2Proof.Machine.execFlsh s
  | .statusWriteCompletion => Sys2Proof.Machine.execStatusWriteCompletion s
  | .attnPulseEnd => Sys2Proof.Machine.execAttnPulseEnd s
  | .lineSample line level => Sys2Proof.Machine.execLineSample line level s
  | .keyingTimerTick => Sys2Proof.Machine.execKeyingTimerTick s

end Sys2Proof.Machine
end

