-- ==== Sys2Proof/Safety.lean ====
section
/-! DEFINITION. The invariants of the part, and the conditions its statements rest on. -/

namespace Sys2Proof.Machine

/-! ### Conditions on a state -/

/-- Memory is in canonical form. -/
abbrev memoryCanonical (s : State) : Prop := Memory.wf s.mem

/-- A transfer of the processor, at any stage of it (R48, R61). -/
def processorOwner (o : Owner) : Prop :=
  (∃ i m r, o = .processor i m r) ∨ (∃ l d r, o = .mergeRead l d r) ∨ ∃ r, o = .mergeWrite r

/-- Nothing but the processor works while cold reset is asserted: no setup is active, no apply waits, no internal
claimant waits, and a transfer on the port is the processor's or was granted before (R71, R200). -/
def coldQuiet (s : State) : Prop :=
  s.coldAsserted = true →
    s.setup.active = none ∧ s.setup.applyWaits = false ∧ s.setupClaim = none ∧ s.reportClaim = none ∧
      s.composerClaim = none ∧ ∀ t, s.port = some t → t.orphan = true ∨ processorOwner t.owner

/-- The active setup, when there is one, has passed validation (R196, R198); none is active while cold reset is
asserted (R200); and the map is UNBUILT while none is active (R25). -/
def setupValid (s : State) : Prop :=
  (∀ u, s.setup.active = some u → validate s.setup.strap u = 0x0001#16) ∧ coldQuiet s ∧
  (s.setup.active = none → s.map.state = .unbuilt)

/-- Claims wait only while the queue is full (R109). -/
abbrev claimsJoined (s : State) : Prop := s.claimOrder = [] ∨ Config.queueSize ≤ s.queue.length

/-- The state but for the report unit's own status pass, which a change of lock, insert mode or cursor may begin
in any event (R183). -/
def besidesStatus (s : State) : State :=
  { s with report.statusLeft := [], report.updateRequested := false, reportClaim := none }

/-- The state but for the status pass and the pending causes, the seen set and ATTN, which an offered cause changes
(R184, R188). -/
def besidesCauses (s : State) : State :=
  { besidesStatus s with report.pending := 0#8, report.seen := 0#8, report.pulse := false, attn := false }

/-- No range is held or posted (R53). -/
abbrev rangeFree (s : State) : Prop := s.heldRange = .empty ∧ s.posting = none ∧ s.composer.posted = .empty

/-- A composer with the cursor and insert mode given and no work (R124): the rest as it was. -/
def idleWith (x : Nat) (ins : Bool) (c : Composer) : Composer :=
  { c with
    engine := .idle, cursor := x, insertMode := ins, work := .none, begun := false, workingTable := none,
    field := none, lastHandled := none, posted := .empty, todo := [], buffer := [] }

/-- A token taken at its verdict and not yet begun (R112, log 6). -/
abbrev tokenTaken (t : Token) (s : State) : Prop :=
  s.composer.work = .token t ∧ s.composer.begun = false ∧
    (s.composer.engine = .token ∨ s.composer.engine = .send)

/-- A directive the composer can take (R124, R174). -/
abbrev directiveReady (d : Directive) (s : State) : Prop :=
  s.report.intake.state = .pending ∧ s.report.intake.code = directiveCode d ∧ s.composer.engine = .idle ∧
    s.setup.applyWaits = false

/-- The head of the queue is offered for a verdict (R110). -/
abbrev verdictDue (s : State) : Prop :=
  s.composer.engine = .idle ∧ s.setup.applyWaits = false ∧ s.report.intake.state ≠ .pending ∧
    s.setup.state = .active ∧ (s.map.state = .current ∨ s.map.state = .limit)

/-- A word write of the processor that the decoder passes, on an idle bus whose next grant goes to the
processor (R52, R67): i is the report word it is handed to, if any. -/
def writeRuns (i : Option (Fin 32)) (a : WordAddr) (cls : AccessClass) (v : Word) (s : State) : Prop :=
  claimsJoined s ∧ setupValid s ∧ s.coldAsserted = false ∧ s.inHand = none ∧ s.port = none ∧ s.posting = none ∧
    (s.fairness < Config.fairnessLimit ∨ internalClaim s = none) ∧
    decideTransfer s { addr := a, lanes := .word, cls := cls, access := .write v } = .route (.pass i)

/-- What such a write leaves but for its effect on a block: the word in memory, ready given, and the fairness
count of its grant (R48, R68). -/
def afterWrite (a : WordAddr) (v : Word) (s : State) : State :=
  { s with
    mem := writeLanes s.mem a .word v, answer := some .written,
    fairness := if (internalClaim s).isSome then s.fairness + 1 else 0 }

/-- t is, but for the status pass, what the arrival of the transfer makes of t0: the transfer has been decided anew
(R52, R54). -/
def arrivedAt (tr : Transfer) (t0 t : State) : Prop :=
  ∃ t1, exec (.processorTransfer tr) t0 = .next t1 ∧ besidesStatus t = besidesStatus t1

/-- The receiver of a line. -/
def rxOf (l : Line) (s : State) : Receiver :=
  match l with
  | .kbd => s.keyboard
  | .scn => s.scanner

/-- The state with a line's receiver replaced. -/
def withRx (l : Line) (r : Receiver) (s : State) : State :=
  match l with
  | .kbd => { s with keyboard := r }
  | .scn => { s with scanner := r }

/-- The format a line's frames have: the keyboard's is fixed, 8 data bits with odd parity (4.1, R84). -/
def formatOf (l : Line) (s : State) : LineFormat :=
  match l with
  | .kbd => { rate := .r2400, eight := true, parity := .odd }
  | .scn => s.lineFormat

/-- A pending format has become the scanner line format, on an entry of the scanner receiver into IDLE (R86). -/
def formatTaken (l : Line) (s : State) : State :=
  match l with
  | .kbd => s
  | .scn => { s with lineFormat := s.pendingFormat.getD s.lineFormat, pendingFormat := none }

/-! ### The composer at its work -/

/-- No abort of an open list is due (R163). -/
abbrev noAbort (s : State) : Prop :=
  s.composer.abortMark = false ∨ (s.composer.listPhase ≠ .walking ∧ s.composer.listPhase ≠ .closing)

/-- The decoder can take the posting of r that the composer awaits before the continuation k, with no transfer of the
processor in hand (R53). -/
abbrev postingDue (u : SetupBlock) (r : HeldRange) (k : Cont) (s : State) : Prop :=
  claimsJoined s ∧ s.setup.active = some u ∧ s.inHand = none ∧ s.processorInFlight = false ∧ s.posting = some r ∧
    s.composer.todo = [.post r, .call k]

/-- The last read of a series, of the cell at word address a, is on the port, the continuation k behind it, with no
transfer of the processor in hand (R130). -/
abbrev lastReadDue (u : SetupBlock) (a : WordAddr) (k : Cont) (s : State) : Prop :=
  claimsJoined s ∧ s.setup.active = some u ∧ s.inHand = none ∧ noAbort s ∧
    s.port = some { owner := .composer, addr := a, op := .read, orphan := false } ∧
    ∃ p, s.composer.todo = [.read p, .call k]

/-- A write of w at position p is on the port, the work `rest` behind it, with no transfer of the processor in hand:
a data cell over a data cell, or a mark over a mark, in CURRENT (R12, R130). -/
abbrev lastWriteDue (u : SetupBlock) (p : Nat) (w : Word) (rest : List Op) (s : State) : Prop :=
  claimsJoined s ∧ memoryCanonical s ∧ s.setup.active = some u ∧ s.inHand = none ∧ noAbort s ∧ s.map.state = .current ∧
    (∃ a, formPos u a = some p ∧
      s.port = some { owner := .composer, addr := a, op := .write .word w, orphan := false }) ∧
    ((entryAt s.map.table p).isSome = isMark w) ∧ s.composer.todo = .write p w :: rest

/-- The words of the series, that of the read on the port last. -/
def wordsWith (a : WordAddr) (s : State) : List Word := s.composer.buffer.reverse ++ [readWord s.mem a]

/-- The range r taken. -/
def rangeTaken (r : HeldRange) (s : State) : State := { s with heldRange := r, posting := none }

/-- The hold made on field f, the live table the working table (R127, R151). -/
def holdOn (f : Field) (s : State) : State :=
  { s with composer.field := some f, composer.workingTable := some s.map.table }

/-- The read on the port taken. -/
def readTaken (a : WordAddr) (s : State) : State :=
  { s with port := none, composer.buffer := readWord s.mem a :: s.composer.buffer }

/-- The write on the port completed: its word in memory, and in the table where it is a mark (R15). -/
def wordWritten (u : SetupBlock) (p : Nat) (w : Word) (s : State) : State :=
  { s with
    port := none, mem := writeLanes s.mem (s.port.elim (cellAddr u p) (fun t => t.addr)) .word w,
    map.table := if isMark w then replaceEntry p w s.map.table else s.map.table }

/-- The composer's work is `ops`, and its first transfer is claimed (R130). -/
def claiming (a : WordAddr) (op : MemOp) (ops : List Op) (s : State) : State :=
  { s with
    composer.todo := ops, composerClaim := some { owner := .composer, addr := a, op := op, orphan := false } }

/-- The composer posts r and awaits its taking before k (R53). -/
def awaiting (r : HeldRange) (k : Cont) (s : State) : State :=
  { s with posting := some r, composer.posted := r, composer.todo := [.post r, .call k] }

/-- The work ends with the cursor at x: EMPTY is posted, the composer is IDLE (R124). -/
def workEnded (x : Nat) (s : State) : State :=
  { s with heldRange := .empty, posting := none, composer := idleWith x s.composer.insertMode s.composer }

/-- A token refused with an error code, the cursor at x: under OPEN the lock takes ERROR and a tone sounds (R115). -/
def refusedAt (x : Nat) (c : ErrorCode) (s : State) : State :=
  workEnded x
    (if s.lock = .opened then
       { s with lock := .error c, tone := true, timer.toneCompare := some (s.timer.counter + 1000#16) }
     else s)

/-- A directive ends with its completion code: the intake records it when it is RUNNING (R174). -/
def directiveEnded (x : Nat) (k : Completion) (s : State) : State :=
  workEnded x
    (offer .directiveDone { s with report.intake.state := .completed, report.intake.completion := k })

/-- The slot of a SCAN token FREE (R103). -/
def slotFreed (i : Fin 4) (s : State) : State :=
  { s with slots := setSlot s.slots i { getSlot s.slots i with state := .free, stamp := none } }

/-- The first waiting claim, if there is one, has joined the tail of the queue: the held code's token leaves the holding
stage, a READY slot becomes QUEUED (R108, R109). -/
def firstJoined (s : State) : State :=
  match s.claimOrder with
  | [] => s
  | c :: cs =>
    match c.who with
    | .held =>
      { s with
        queue := s.queue ++ (s.holding.map (fun h => Token.key h.code)).toList, holding := none, claimOrder := cs }
    | .slot i =>
      { s with
        queue := s.queue ++ [.scan i], claimOrder := cs,
        slots := setSlot s.slots i { getSlot s.slots i with state := .queued } }

/-- The hold of the cursor's field f is made when the posting before k is taken: the working lookup finds the posted
field again or WHOLE was posted, or the narrower range under WHOLE is taken (R127 steps 3 and 4). -/
def holdMadeBy (k : Cont) (f : Field) (s : State) : Prop :=
  s.lookup s.composer.cursor = some f ∧
    ((∃ m l w, k = .holdFirst m l w ∧ (w = true ∨ (f.mark = m ∧ f.len = l))) ∨
     (k = .holdNarrow ∧ s.composer.field = some f ∧ s.composer.workingTable = some s.map.table))

/-- The reads of a field's cells at offsets 0 to L − 1, ascending. -/
def cellReads (n : Nat) (f : Field) : List Op := (List.range f.len).map (fun j => Op.read (posAt n f j))

/-- The offsets at which two sequences of a field's words differ, ascending. -/
def changedOffsets (old new : List Word) : List Nat :=
  (List.range old.length).filter (fun j => old.getD j 0#16 != new.getD j 0#16)

/-- The writes of the changed cells, ascending (R39). -/
def cellWrites (n : Nat) (f : Field) (old new : List Word) : List Op :=
  (changedOffsets old new).map (fun j => Op.write (posAt n f j) (new.getD j 0#16))

/-- MODIFIED of the field is set by a mark write, after which k follows; already set, or on the unformatted screen,
it takes no transfer and the state is `done` of it (R131). -/
def modifiedThen (u : SetupBlock) (f : Field) (rest : List Op) (done : State → State) (s : State) : State :=
  match f.mark with
  | none => done { s with map.modified := true }
  | some m =>
    if isModified f.word then done s
    else
      claiming (cellAddr u m) (.write .word (f.word ||| 0x0100#16)) (.write m (f.word ||| 0x0100#16) :: rest) s

/-- The validation walk begins at the first field in map order, EMPTY having been posted; outside CURRENT the send is
refused with ERROR 07 (R150, R151, R160). -/
def walkBegun (s : State) : State :=
  if s.map.state = .current then
    match s.liveFields with
    | g :: _ =>
      awaiting (heldRangeOf s.map.table g) (.stepFirst .validate g.mark g.len)
        { s with heldRange := .empty, composer.lastHandled := none }
    | [] => s
  else refusedAt s.composer.cursor .formatLimit s

/-- What follows exit processing that succeeded, over the working table's fields fs (R134, R136, R142, R143, R150). -/
def exitFollowed (u : SetupBlock) (f : Field) (next : ExitNext) (fs : List Field) (s : State) : State :=
  match next with
  | .move d => workEnded (d % formSize u) s
  | .advance x => workEnded (tabDest (formSize u) fs x % formSize u) s
  | .field x =>
    modifiedThen u f [.call (.moveTo (tabDest (formSize u) fs x))]
      (workEnded (tabDest (formSize u) fs x % formSize u)) s
  | .send => walkBegun s

/-- The three closing writes, the first claimed: entry count, used count, final state word (R159, R164). -/
def listEnding (u : SetupBlock) (st : ListState) (p : ListPhase) (s : State) : State :=
  let final : Word := match st with | .complete => 0x0001#16 | .truncated => 0x0002#16 | .aborted => 0x0003#16
  claiming (returnAddr u 3) (.write .word (BitVec.ofNat 16 s.composer.count))
    [.list 3 (BitVec.ofNat 16 s.composer.count), .list 4 (BitVec.ofNat 16 s.composer.used), .list 0 final,
     .call (.listClosed st)]
    { s with composer.listPhase := p }

/-- The five opening writes, the first claimed (R156). -/
def listOpening (u : SetupBlock) (s : State) : State :=
  claiming (returnAddr u 0) (.write .word 0x8000#16)
    [.list 0 0x8000#16, .list 1 (s.composer.keyCode.setWidth 16), .list 2 (BitVec.ofNat 16 s.composer.cursorAtSend),
     .list 3 0x0000#16, .list 4 0x0005#16, .call .listOpened]
    { s with composer.listPhase := .opening, composer.used := 5, composer.count := 0 }

/-- The send lock is taken from OPEN, insert mode is off, and the list is opened; with no RETURN window the send ends
at once with SEND READY unless the abort mark is set (R116, R153, R161, R163). -/
def sendLocked (u : SetupBlock) (s : State) : State :=
  let s1 := { s with lock := if s.lock = .opened then .system .send else s.lock, composer.insertMode := false }
  if windowOf u .return = none then
    workEnded s.composer.cursor (if s.composer.abortMark then s1 else offer .sendReady s1)
  else listOpening u s1

/-- The erase pass has ended: the flag of an unformatted screen is clear, the cursor is at `home`; EIN ends, CLIN
completes, CLR releases its hold and goes on to the send lock (R140, R154, R179). -/
def eraseFollowed (u : SetupBlock) (home : Nat) (s : State) : State :=
  let erased : State := { s with map.modified := s.map.modified && !s.map.table.isEmpty }
  match s.composer.work with
  | .directive _ _ => directiveEnded home .done erased
  | .token t =>
    if t = .key 0xCF#8 then
      sendLocked u
        { erased with
          heldRange := .empty, posting := none, composer.posted := .empty, composer.cursor := home }
    else workEnded home erased
  | .none => erased
  | .apply => erased

/-- The walk w has no field left (R153, R159). -/
def walkOver (u : SetupBlock) (w : Walk) (s : State) : State :=
  match w with
  | .validate => sendLocked u s
  | .gather => listEnding u .complete .closing s

/-- The walk goes on after the field f: to the entry of lowest position above it, whose range is posted, to its end,
or to the end that a map outside CURRENT makes of it (R151, R160). -/
def walkOn (u : SetupBlock) (w : Walk) (f : Field) (s : State) : State :=
  match f.mark with
  | none => walkOver u w s
  | some m =>
    let s1 := { s with composer.lastHandled := some m }
    if s.map.state = .current then
      match s.liveFields.find? (fun g => g.mark.any (fun p => m < p)) with
      | some g => awaiting (heldRangeOf s.map.table g) (.stepFirst w g.mark g.len) s1
      | none => walkOver u w s1
    else
      match w with
      | .validate => refusedAt s.composer.cursor .formatLimit s1
      | .gather => listEnding u .truncated .closing s1

/-- The selection of a field step: the first field of the walk, or the first above the last position handled
(R151 step 1). -/
def selects (f : Option Field) (s : State) : Prop :=
  s.map.state = .current ∧
    f = (match s.composer.lastHandled with
         | none => s.liveFields.head?
         | some last => s.liveFields.find? (fun g => g.mark.any (fun p => last < p)))

/-- The hold of a field step is made on f when the posting before k is taken (R151 steps 3 and 4). -/
def stepMadeBy (w : Walk) (k : Cont) (f : Field) (s : State) : Prop :=
  (k = .stepFirst w f.mark f.len ∧ selects (some f) s) ∨ (k = .stepMade w ∧ s.composer.field = some f)

/-- The next mark of the clear-modified pass above p, whose CELL is posted; with none the pass ends: UNLK unlocks, and
the directive completes with DONE (R146, R175, R179). -/
def cellOn (d : Directive) (p : Nat) (s : State) : State :=
  match s.map.table.find? (fun e => decide (p < e.pos)) with
  | some e => awaiting (.cell e.pos) (.cellTaken e.pos) { s with composer.lastHandled := some p }
  | none =>
    directiveEnded s.composer.cursor .done
      (if d = .unlk then
         { s with lock := match s.lock with | .system _ => .opened | .opened => .opened | .error c => .error c }
       else s)

/-! ### Invariants -/

/-- The fairness count is 0..8 (R68). -/
abbrev fairnessBounded (s : State) : Prop := s.fairness ≤ Config.fairnessLimit

/-- ATTN has the level of R188. -/
abbrev attnDriven (s : State) : Prop := s.attn = attnLevel s

/-- The seen set is within the pending set (R166). -/
abbrev seenWithinPending (s : State) : Prop := s.report.seen &&& ~~~s.report.pending = 0#8

/-- The cursor is below the active N (R126). -/
def cursorInside (s : State) : Prop := ∀ u, s.setup.active = some u → s.composer.cursor < formSize u

/-- The table holds at most 256 entries, in strictly increasing order of position, each below N and a mark word;
it is empty in UNBUILT and LIMIT, and all below the scan point while REBUILDING (R8, R9, R20). -/
def mapOrdered (s : State) : Prop :=
  s.map.table.length ≤ Config.tableSize ∧ s.map.table.Pairwise (fun a b => a.pos < b.pos) ∧
  (∀ e ∈ s.map.table, e.pos < s.formN ∧ isMark e.word = true) ∧
  (s.map.state = .unbuilt ∨ s.map.state = .limit → s.map.table = []) ∧
  (s.map.state = .rebuilding → s.map.scanPoint < s.formN ∧ ∀ e ∈ s.map.table, e.pos < s.map.scanPoint)

/-- Number of the held code's claims in the claim order. -/
def heldClaims (s : State) : Nat := (s.claimOrder.filter (fun c => decide (c.who = .held))).length

/-- The slots of the SCAN tokens in the queue, in order. -/
def queuedSlots (s : State) : List (Fin 4) :=
  s.queue.filterMap (fun t =>
    match t with
    | .key _ => none
    | .scan i => some i)

/-- The queue, the claim order, the holding stage, the slots, the scan in progress and the composer's current
token agree (R92, R93, R103, R107 to R109, R123). -/
def queueAgrees (s : State) : Prop :=
  s.queue.length ≤ Config.queueSize ∧ claimsJoined s ∧
  (∀ i, (getSlot s.slots i).state = .queued ↔ i ∈ queuedSlots s) ∧ (queuedSlots s).Nodup ∧
  (∀ i, (getSlot s.slots i).state = .ready ↔ i ∈ s.readyOrder) ∧ s.readyOrder.Nodup ∧
  (∀ i, (getSlot s.slots i).state = .taken ↔ s.composer.work = .token (.scan i)) ∧
  (∀ i, (getSlot s.slots i).state = .collecting ↔ s.collecting = .collecting i) ∧
  (∀ i, (getSlot s.slots i).chars.length ≤ Config.slotSize) ∧
  heldClaims s = (if s.holding.isSome then 1 else 0) ∧
  (s.composer.engine = .idle → s.composer.work = .none)

/-- In CURRENT the map has an entry at a position exactly when memory holds a mark there, with that mark word
(R10); while REBUILDING the same holds below the scan point (R20). -/
def mapMatches (s : State) : Prop :=
  ∀ u, s.setup.active = some u → ∀ p < formSize u,
    (s.map.state = .current ∨ (s.map.state = .rebuilding ∧ p < s.map.scanPoint)) →
    entryAt s.map.table p =
      if isMark (readWord s.mem (cellAddr u p)) then some ⟨p, readWord s.mem (cellAddr u p)⟩ else none

/-- A transfer on the port or claimed by the report unit or the setup unit that writes outside the form area by
its right: the status pass at positions N to M, the setup unit at its block. -/
def ownAddress (s : State) (t : PortTransfer) : Prop :=
  match t.owner with
  | .status => ∀ u, s.setup.active = some u → formPos u t.addr = none
  | .setupResult => t.addr = setupAddr s.setup.strap 30
  | .setupClear => t.addr = setupAddr s.setup.strap 31
  | .setupRead => t.op = .read
  | .mapScan => t.op = .read
  | .mergeRead _ _ _ => t.op = .read
  | .processor _ _ _ => True
  | .mergeWrite _ => True
  | .composer => True

/-- The transfers on the port and claimed keep to their addresses, each claimant claiming its own, but for a transfer
granted before a cold reset, which finds no setup active (R67, R71). -/
def claimsInPlace (s : State) : Prop :=
  (∀ t, s.port = some t → if t.orphan then s.setup.active = none else ownAddress s t) ∧
  (∀ t, s.setupClaim = some t →
    ownAddress s t ∧ t.orphan = false ∧ (t.owner = .setupRead ∨ t.owner = .setupResult ∨ t.owner = .setupClear)) ∧
  (∀ t, s.reportClaim = some t → ownAddress s t ∧ t.orphan = false ∧ t.owner = .status) ∧
  (∀ t, s.composerClaim = some t →
    ownAddress s t ∧ t.orphan = false ∧ (t.owner = .composer ∨ t.owner = .mapScan)) ∧
  (∀ u, s.setup.active = some u → ∀ c ∈ s.report.statusLeft, formSize u ≤ c.1 ∧ c.1 ≤ mirrorPos u)

/-- All of it: the map matches memory wherever it says it does (R10). -/
def mapFaithful (s : State) : Prop :=
  memoryCanonical s ∧ setupValid s ∧ mapOrdered s ∧ claimsInPlace s ∧ mapMatches s

end Sys2Proof.Machine
end

