-- ==== Sys2Proof/Certificates/Slice0/Obligations.lean ====
section
/-! DEFINITION. The statements for the provers. `besidesStatus t = besidesStatus x` says that t is x in every
field but the status pass, which any event that changes the lock, insert mode or the cursor may begin (R183);
`besidesCauses t = besidesCauses x` says so but for the pending causes, the seen set and ATTN as well. A field of t
inside x is one the equation leaves to the clauses beside it. -/

section

open Sys2Proof Sys2Proof.Machine

/-! ### Steps -/

/-- A step takes the command at the front of the queue and runs it on the state with the queue's rest; with no
command waiting it idles (log 5). -/
def Obligations.StepRunsFrontCommand : Prop :=
  (∀ (c : Instr) (rest : List Instr) (s : State),
    step { s with pending := c :: rest } = exec c { s with pending := rest }) ∧
  ∀ s : State, s.pending = [] → step s = .next s

/-- Every command answers a next state, with the queue of commands as it was: the spec names no stop. -/
def Obligations.EveryCommandAnswersNextState : Prop :=
  ∀ (c : Instr) (s : State), ∃ t, exec c s = .next t ∧ t.pending = s.pending

/-! ### Resets -/

/-- Cold reset puts every block at its cold-reset values and leaves memory; its end samples the straps and lets the
part run, and nothing else changes (R25, R71, R87, R105, R121, R147, R189, R191, R192, R200). -/
def Obligations.ColdResetAndItsEnd : Prop :=
  (∀ s : State, s.coldAsserted = false → ∃ t, exec .coldReset s = .next t ∧ t.coldAsserted = true ∧ t.mem = s.mem ∧
    t.map = { state := .unbuilt, table := [], scanPoint := 0, modified := false } ∧
    t.heldRange = .empty ∧ t.posting = none ∧ t.fairness = 0 ∧ t.composer.listPhase = .closed ∧
    (∀ h, s.inHand = some h → (∃ why, h.standing = .held why) → t.inHand = none) ∧
    t.setupClaim = none ∧ t.reportClaim = none ∧ t.composerClaim = none ∧
    t.composer.engine = .idle ∧ t.composer.cursor = 0 ∧ t.composer.insertMode = false ∧ t.composer.work = .none ∧
    t.composer.workingTable = none ∧ t.composer.posted = .empty ∧ t.composer.abortMark = false ∧
    (∀ r ∈ [t.keyboard, t.scanner], r.state = .idle ∧ r.seenIdle = false ∧ r.run = 0 ∧ r.shift = 0#8) ∧
    t.holding = none ∧ t.lineFormat = { rate := .r9600, eight := true, parity := .none } ∧ t.pendingFormat = none ∧
    (∀ i, getSlot t.slots i =
      { state := .free, chars := [], parity := false, framing := false, illegal := false, overflow := false,
        stamp := none }) ∧
    t.collecting = .none ∧ t.readyOrder = [] ∧ t.record.valid = false ∧ t.terminator = 0x0D#8 ∧
    t.timer = { counter := 0#16, gap := none, holdoff := none, toneCompare := none, gapLimit := 200#16, holdoffTicks := 0#16 } ∧
    t.queue = [] ∧ t.claimOrder = [] ∧ t.lock = .system .start ∧ t.tone = false ∧
    t.report.pending = 0#8 ∧ t.report.seen = 0#8 ∧
    t.report.counters = { suppress := 0#16, lost := 0#16, discard := 0#16, scanDrop := 0#16, lineError := 0#16 } ∧
    t.report.snapshotValid = false ∧ t.report.intake.state = .none ∧ t.report.intake.code = 0#8 ∧
    t.report.intake.completion = .none ∧ t.report.intake.overlap = false ∧ t.report.operand = 0#16 ∧
    t.report.statusLeft = [] ∧ t.report.updateRequested = false ∧ t.report.pulse = false ∧ t.attn = false ∧
    t.setup.state = .unset ∧ t.setup.active = none ∧ t.setup.prior = .unset ∧ t.setup.fetched = [] ∧
    t.setup.result = none) ∧
  ∀ (k : BitVec 4) (s : State), s.coldAsserted = true → claimsJoined s →
    ∃ t, exec (.coldResetEnd k) s = .next t ∧
      besidesStatus t = besidesStatus { s with coldAsserted := false, setup.strap := k }

/-- Warm reset abandons the transfer in hand unless it has been granted, and that one completes with no ready owed (R72;
that the hand is free for a new transfer from then on is the model's, log 14); it locks the keyboard with SYSTEM(START),
clears causes, snapshot, intake and operand (the captured operand of the empty intake being 0000h is the model's, log 18),
marks a send or gather for its abort, and keeps the rest: among it every internal claim that waits, the work in progress
with the range it holds, when no open list is aborted in this event, and a status pass in WRITING (R26, R72, R88, R106,
R122, R148, R163, R190, R201). -/
def Obligations.WarmResetKeepsAndClears : Prop :=
  ∀ s : State, claimsJoined s → ∃ t, exec .warmReset s = .next t ∧
    t.inHand = none ∧ t.answer = none ∧ t.fairness = 0 ∧ t.lock = .system .start ∧
    t.port =
      s.port.map (fun x =>
        { x with
          owner :=
            match x.owner with
            | .processor i m _ => .processor i m false
            | .mergeRead l d _ => .mergeRead l d false
            | .mergeWrite _ => .mergeWrite false
            | o => o }) ∧
    t.report.pending = 0#8 ∧ t.report.seen = 0#8 ∧ t.report.snapshotValid = false ∧
    t.report.intake = Intake.empty ∧ t.report.operand = 0#16 ∧ t.report.pulse = false ∧ t.attn = false ∧
    t.report.counters = s.report.counters ∧ t.coldAsserted = s.coldAsserted ∧ t.mem = s.mem ∧ t.map = s.map ∧
    t.heldRange = s.heldRange ∧ t.posting = s.posting ∧ t.queue = s.queue ∧ t.claimOrder = s.claimOrder ∧
    t.holding = s.holding ∧ t.keyboard = s.keyboard ∧ t.scanner = s.scanner ∧ t.lineFormat = s.lineFormat ∧
    t.pendingFormat = s.pendingFormat ∧ t.slots = s.slots ∧ t.collecting = s.collecting ∧
    t.terminator = s.terminator ∧ t.record = s.record ∧ t.timer = s.timer ∧ t.tone = s.tone ∧ t.setup = s.setup ∧
    t.setupClaim = s.setupClaim ∧ t.composer.cursor = s.composer.cursor ∧
    t.composer.insertMode = s.composer.insertMode ∧ t.composer.engine = s.composer.engine ∧
    t.composer.work = s.composer.work ∧
    (t.composer.abortMark = true ↔
      s.composer.abortMark = true ∨ (∃ code, s.composer.work = .token (.key code) ∧ isSendCode code = true) ∨
        ∃ d op, s.composer.work = .directive d op ∧ (d = .gmod ∨ d = .gunp)) ∧
    ((s.composer.listPhase ≠ .walking ∧ s.composer.listPhase ≠ .closing) ∨
        (∃ x, s.port = some x ∧ x.owner = .composer) ∨ s.composerClaim ≠ none →
      t.composer = { s.composer with abortMark := t.composer.abortMark } ∧ t.composerClaim = s.composerClaim) ∧
    (∀ c, s.composerClaim = some c → t.composerClaim = some c) ∧
    (s.report.statusLeft ≠ [] → t.report.statusLeft = s.report.statusLeft ∧ t.reportClaim = s.reportClaim)

/-- A warm reset during the walk or close of the list of a send, GMOD or GUNP, with no transfer of the composer in flight
or claimed, begins the abort: the entry count is the next write of the list (R163, R164). With one claimed, the claim keeps
waiting and the work stands (R72). A transfer so claimed, or in flight, completes, and the abort begins in the event of its
completion (R164): a list word written stands, and where it ends an entry, the entry is counted as written whole (the
model's, as is the replacement of closing writes not yet made, log 12). -/
def Obligations.WarmResetAbortsOpenList : Prop :=
  ∀ (s : State) (u : SetupBlock), s.setup.active = some u →
    (s.composer.listPhase = .walking ∨ s.composer.listPhase = .closing) →
    ((∃ code, s.composer.work = .token (.key code) ∧ isSendCode code = true) ∨
      (∃ d op, s.composer.work = .directive d op ∧ (d = .gmod ∨ d = .gunp))) →
    ((∀ t, s.port = some t → t.owner ≠ .composer) → s.composerClaim = none →
      ∃ t, exec .warmReset s = .next t ∧ t.composer.abortMark = true ∧ t.composer.listPhase = .aborting ∧
        t.composerClaim =
          some { owner := .composer, addr := returnAddr u 3, op := .write .word (BitVec.ofNat 16 s.composer.count),
                 orphan := false } ∧
        t.composer.todo =
          [.list 3 (BitVec.ofNat 16 s.composer.count), .list 4 (BitVec.ofNat 16 s.composer.used), .list 0 0x0003#16,
           .call (.listClosed .aborted)]) ∧
    (∀ c, s.composerClaim = some c →
      ∃ t, exec .warmReset s = .next t ∧ t.composer.abortMark = true ∧ t.composerClaim = some c ∧
        t.composer.listPhase = s.composer.listPhase ∧ t.composer.todo = s.composer.todo) ∧
    ∀ (a : WordAddr) (rest : List Op), claimsJoined s → s.composer.abortMark = true →
      let result : State → Prop := fun X =>
        ∃ t, exec .composerTransferCompletion s = .next t ∧ besidesStatus t = besidesStatus X
      let endsEntry : Nat → Prop := fun size => ∃ ops, rest = .call (.entryWritten size) :: ops
      (∀ p, s.port = some { owner := .composer, addr := a, op := .read, orphan := false } →
        s.composer.todo = .read p :: rest → (∀ size, ¬endsEntry size) →
        result (listEnding u .aborted .aborting (readTaken a s))) ∧
      ∀ i w, s.port = some { owner := .composer, addr := a, op := .write .word w, orphan := false } →
        formPos u a = none → s.composer.todo = .list i w :: rest →
        let written : State := { s with mem := writeLanes s.mem a .word w, port := none }
        ((∀ size, ¬endsEntry size) → result (listEnding u .aborted .aborting written)) ∧
        ∀ size, endsEntry size →
          result
            (listEnding u .aborted .aborting
              { written with composer.used := s.composer.used + size, composer.count := s.composer.count + 1 })

/-! ### The transfer path -/

/-- A transfer on a form-area cell in the held range is held; a write into the RETURN window is held during a
gather; and while the map is REBUILDING a normal form-area write under ENFORCE and an ND form-area read under masking are
held. When the decoder takes the range the composer awaits, a transfer held or waiting is decided anew under it, as if it
arrived then: one the new range no longer covers takes its outcome, one that it covers is held again; and the composer then
goes on with its work (R52 to R55, R58, R60). The releases at the end of a piece of work, of a gather and of a rebuild are
stated in CharacterIsWritten, ListEndsReportAndRelease and RebuildRunsToItsEnd. -/
def Obligations.TransfersAreHeldAndReleased : Prop :=
  ∀ (tr : Transfer) (s : State) (u : SetupBlock), claimsJoined s → s.coldAsserted = false →
    s.setup.active = some u →
    (s.inHand = none →
      (∀ p, formPos u tr.addr = some p → rangeCovers (formSize u) s.heldRange p = true →
        ∃ t, exec (.processorTransfer tr) s = .next t ∧
          besidesStatus t = besidesStatus { s with inHand := some ⟨tr, .held .range⟩, answer := none }) ∧
      (inHeldRange u s tr.addr = false → isWrite tr = true → s.composer.listPhase ≠ .closed →
        (∃ w, windowOf u .return = some w ∧ windowCovers u w tr.addr = true) →
        ∃ t, exec (.processorTransfer tr) s = .next t ∧
          besidesStatus t = besidesStatus { s with inHand := some ⟨tr, .held .gather⟩, answer := none }) ∧
      (∀ w, inHeldRange u s tr.addr = false → inGatherHold u s tr = false → decidingWindow u tr = some w →
        windowKind u w = .screen → (∃ p, formPos u tr.addr = some p) → s.map.state = .rebuilding →
        ((isWrite tr = true ∧ (tr.cls = .nd ∨ tr.cls = .nf) ∧ enforceOn u = true) ∨
          (isWrite tr = false ∧ tr.cls = .nd ∧ maskingOn u = true)) →
        ∃ t, exec (.processorTransfer tr) s = .next t ∧
          besidesStatus t = besidesStatus { s with inHand := some ⟨tr, .held .rebuild⟩, answer := none })) ∧
    (∀ (r : HeldRange) (st : Standing) (rest : List Op), s.inHand = some ⟨tr, st⟩ → st ≠ .granted →
      s.posting = some r → s.processorInFlight = false → s.composer.todo = .post r :: rest →
      ∃ t t1, exec .heldRangePosting s = .next t ∧
        arrivedAt tr { s with inHand := none, heldRange := r, posting := none } t1 ∧
        besidesStatus t = besidesStatus (resume (setTodo rest t1)))

/-- A transfer that passes waits for the port as issued, but for a byte write in the form area, which waits as a merge:
one that no window decides, and any while no setup is active (R51, R61, R71); a write decided by SCREEN that is privileged,
or normal with ENFORCE clear, or normal under ENFORCE and meeting no test of R57, and a read decided by SCREEN that is not
masked (R56, R57, R61, R62); a privileged write and any read decided by RETURN (R63); and, decided by REPORT, a byte
write, a transfer above the live span, and a word write into it, which carries its report word (R64, R65). A read under
masking in LIMIT waits for its word (R60). -/
def Obligations.TransfersThatPassWait : Prop :=
  ∀ (tr : Transfer) (s : State), claimsJoined s → s.inHand = none →
    let waits : Route → Prop := fun r =>
      ∃ t, exec (.processorTransfer tr) s = .next t ∧
        besidesStatus t = besidesStatus { s with inHand := some ⟨tr, .waiting r⟩, answer := none }
    (s.setup.active = none → waits (.pass none)) ∧
    (∀ u, s.setup.active = some u → s.coldAsserted = false → inHeldRange u s tr.addr = false →
      inGatherHold u s tr = false →
      let normal := tr.cls = .nd ∨ tr.cls = .nf
      let asIssued : Route :=
        if isWrite tr = true ∧ tr.lanes ≠ .word ∧ formPos u tr.addr ≠ none then .merge else .pass none
      (decidingWindow u tr = none → waits asIssued) ∧
      (∀ w, decidingWindow u tr = some w →
        (windowKind u w = .screen → isWrite tr = true → (enforceOn u = false ∨ ¬normal) → waits asIssued) ∧
        (windowKind u w = .screen → isWrite tr = true → normal → enforceOn u = true →
          (∀ p, formPos u tr.addr = some p → s.map.state = .current →
            entryAt s.map.table p = none →
            (∀ f, s.lookup p = some f → isProtected f.word = true → isDataOf (formSize u) f p = false) →
            (∀ v, tr.access = .write v → isMark v = true → tr.lanes = .low) → waits asIssued) ∧
          (formPos u tr.addr = none →
            (∀ q, screenPos u tr.addr = some q →
              q ≠ mirrorPos u ∧ (statusRowOn u = true → q < formSize u ∨ formSize u + setupCols u ≤ q)) →
            waits asIssued)) ∧
        (windowKind u w = .screen → isWrite tr = false →
          (maskingOn u = false ∨ tr.cls ≠ .nd ∨ formPos u tr.addr = none ∨
            ∃ p, formPos u tr.addr = some p ∧ s.map.state = .current ∧
              ∀ f, s.lookup p = some f → isHidden f.word = true → isDataOf (formSize u) f p = false) →
          waits (.pass none)) ∧
        (windowKind u w = .screen → isWrite tr = false → maskingOn u = true → tr.cls = .nd →
          (∃ p, formPos u tr.addr = some p) → s.map.state = .limit → waits .maskedRead) ∧
        (windowKind u w = .return → (isWrite tr = false ∨ ¬normal) → waits asIssued) ∧
        (windowKind u w = .report → windowBase u w + 64 ≤ byteAddr tr.addr → waits asIssued) ∧
        (windowKind u w = .report → isWrite tr = true → tr.lanes ≠ .word → waits asIssued) ∧
        (∀ i : Fin 32, windowKind u w = .report → isWrite tr = true → tr.lanes = .word →
          byteAddr tr.addr = windowBase u w + 2 * i.val → waits (.pass (some i)))))

/-- A normal write is suppressed: in the SCREEN window under ENFORCE at a mark, in a protected field, as a new
mark, on the status row, at the mirror word, or anywhere in the form area in LIMIT; and in the RETURN window
(R57, R58, R62, R63). A suppressed write is given ready, its data is discarded, PROTECT is offered and SUPPRESS takes one
count, staying at 65535 (R59, R171, R184). -/
def Obligations.NormalWritesSuppressed : Prop :=
  (∀ (tr : Transfer) (s : State) (u : SetupBlock) (w : Nat), s.coldAsserted = false → s.setup.active = some u →
    inHeldRange u s tr.addr = false → inGatherHold u s tr = false → isWrite tr = true →
    (tr.cls = .nd ∨ tr.cls = .nf) → decidingWindow u tr = some w →
    (windowKind u w = .return ∨
      (windowKind u w = .screen ∧ enforceOn u = true ∧
        ((∃ p, formPos u tr.addr = some p ∧ s.map.state = .current ∧
            ((∃ e, entryAt s.map.table p = some e) ∨
             (∃ f, s.lookup p = some f ∧ isProtected f.word = true ∧ isDataOf (formSize u) f p = true) ∨
             (∃ v, tr.access = .write v ∧ isMark v = true ∧ tr.lanes ≠ .low))) ∨
         (∃ p, formPos u tr.addr = some p ∧ s.map.state = .limit) ∨
         (∃ q, screenPos u tr.addr = some q ∧ statusRowOn u = true ∧ formSize u ≤ q ∧ q < formSize u + setupCols u) ∨
         screenPos u tr.addr = some (mirrorPos u)))) →
    decideTransfer s tr = .suppress) ∧
  ∀ (tr : Transfer) (s : State), claimsJoined s → s.inHand = none → decideTransfer s tr = .suppress →
    ∃ t, exec (.processorTransfer tr) s = .next t ∧
      besidesCauses t =
        besidesCauses
          { s with
            answer := some .written, report.counters.suppress := t.report.counters.suppress } ∧
      t.report.counters.suppress.toNat = min (s.report.counters.suppress.toNat + 1) 65535 ∧
      t.report.pending = s.report.pending ||| 0x20#8 ∧ t.report.seen = s.report.seen &&& ~~~0x20#8

/-- Reads answered without memory: 0020h for an ND read of a hidden field's data cell under masking; the report unit's
value for a report word 1 to 15, the snapshot's once one is latched; the vector code for word 17, the lowest enabled
pending cause of level 1, else of level 0, plus one, and 0 for none; and 0000h for words 18 to 31 (R60, R64, R167, R169,
R187, R203). -/
def Obligations.SubstitutedReads : Prop :=
  ∀ (tr : Transfer) (s : State) (u : SetupBlock) (w : Nat), claimsJoined s → s.inHand = none →
    s.coldAsserted = false → s.setup.active = some u → inHeldRange u s tr.addr = false → tr.access = .read →
    decidingWindow u tr = some w →
    let answers : Word → Prop := fun v =>
      ∃ t, exec (.processorTransfer tr) s = .next t ∧ besidesStatus t = besidesStatus { s with answer := some (.word v) }
    (∀ p f, windowKind u w = .screen → maskingOn u = true → tr.cls = .nd → formPos u tr.addr = some p →
      s.map.state = .current → s.lookup p = some f → isHidden f.word = true → isDataOf (formSize u) f p = true →
      answers 0x0020#16) ∧
    (∀ i : Fin 32, windowKind u w = .report → liveWordOf (windowBase u w) tr.addr = some i →
      (1 ≤ i.val → i.val ≤ 15 →
        answers ((if s.report.snapshotValid then s.report.snapshot else liveWords s).getD (i.val - 1) 0#16)) ∧
      (i.val = 17 →
        let on : Nat → Bool := fun b => s.report.pending.getLsbD b && (setupWord u 15).getLsbD b
        let high : Nat → Bool := fun b => (setupWord u 15).getLsbD (8 + b)
        (∀ b < 8, on b = true → high b = true → (∀ c < b, on c = true → high c = false) →
          answers (BitVec.ofNat 16 (b + 1))) ∧
        (∀ b < 8, (∀ c < 8, on c = true → high c = false) → on b = true → (∀ c < b, on c = false) →
          answers (BitVec.ofNat 16 (b + 1))) ∧
        ((∀ c < 8, on c = false) → answers 0x0000#16)) ∧
      (18 ≤ i.val → answers 0x0000#16))

/-- The arbiter's grant: the processor while the fairness count is below 8 or no internal claimant waits, the
count rising by one when one waits and set to 0 when none does; else the first of setup unit, report unit,
composer or field map, with the count set to 0 (R67, R68; the count at 8 with no internal claimant, log 16). -/
def Obligations.GrantFollowsRankAndFairness : Prop :=
  ∀ s : State, claimsJoined s → s.port = none →
    (∀ tr r, s.inHand = some ⟨tr, .waiting r⟩ →
      (s.fairness < 8 ∨ (s.setupClaim = none ∧ s.reportClaim = none ∧ s.composerClaim = none)) →
      ∃ t, exec .memoryPortGrant s = .next t ∧
        besidesStatus t =
          besidesStatus
            { s with
              inHand := some ⟨tr, .granted⟩, port := some (grantedTransfer tr r),
              fairness :=
                if s.setupClaim = none ∧ s.reportClaim = none ∧ s.composerClaim = none then 0 else s.fairness + 1 }) ∧
    (((∃ tr r, s.inHand = some ⟨tr, .waiting r⟩) ∧ 8 ≤ s.fairness) ∨ (∀ tr r, s.inHand ≠ some ⟨tr, .waiting r⟩) →
      ∀ c,
        (s.setupClaim = some c →
          ∃ t, exec .memoryPortGrant s = .next t ∧
            besidesStatus t = besidesStatus { s with port := some c, fairness := 0, setupClaim := none }) ∧
        (s.setupClaim = none → s.reportClaim = some c →
          ∃ t, exec .memoryPortGrant s = .next t ∧
            besidesStatus t = besidesStatus { s with port := some c, fairness := 0 }) ∧
        (s.setupClaim = none → s.reportClaim = none → s.composerClaim = some c →
          ∃ t, exec .memoryPortGrant s = .next t ∧
            besidesStatus t = besidesStatus { s with port := some c, fairness := 0, composerClaim := none }))

/-- A processor write granted the port completes: its bytes are in memory and no other byte changes, the port is
free, ready is given, and the setup, the lines, the queue and the slots stand (R48, R56). -/
def Obligations.ProcessorWriteCompletes : Prop :=
  ∀ (s : State) (tr : Transfer) (a : WordAddr) (l : Lanes) (v : Word), memoryCanonical s → claimsJoined s →
    s.inHand = some ⟨tr, .granted⟩ → a ≠ setupAddr s.setup.strap 31 →
    s.port = some { owner := .processor none false true, addr := a, op := .write l v, orphan := false } →
    ∃ t, exec .processorTransferCompletion s = .next t ∧ t.port = none ∧ t.inHand = none ∧
      t.answer = some .written ∧
      (l ≠ .high → readByte t.mem (byteAddr a) = v.setWidth 8) ∧
      (l ≠ .low → readByte t.mem (byteAddr a + 1) = (v >>> 8).setWidth 8) ∧
      (∀ b, ((b ≠ byteAddr a ∨ l = .high) ∧ (b ≠ byteAddr a + 1 ∨ l = .low)) → readByte t.mem b = readByte s.mem b) ∧
      t.setup = s.setup ∧ t.queue = s.queue ∧ t.slots = s.slots ∧ t.holding = s.holding ∧ t.timer = s.timer ∧
      t.keyboard = s.keyboard ∧ t.scanner = s.scanner ∧ t.fairness = s.fairness ∧ t.lock = s.lock ∧
      t.composer.cursor = s.composer.cursor ∧ t.report.counters = s.report.counters ∧
      ((∀ u, s.setup.active = some u → formPos u a = none) → s.posting ≠ some .empty →
        besidesStatus t =
          besidesStatus
            { s with mem := writeLanes s.mem a l v, port := none, inHand := none, answer := some .written })

/-- Upkeep in CURRENT: a write of the processor or the composer that completes at a form-area cell leaves the map
with an entry there exactly when the value written is a mark, with that word, and every other entry as it was;
a 257th mark empties the table, enters LIMIT and offers FORMAT LIMIT; a first mark clears the
unformatted-modified flag (R7, R11 to R15). While REBUILDING a write below the scan point is judged so, one at or above it
changes nothing in the map, and a 257th mark ends the rebuild in LIMIT, the flag cleared and no read of the scan claimed any
more (R20, R21; log 33). A mark word replaced while an ND read of its field waits for its grant: the read is masked at its
completion exactly when its cell is a data cell and HIDDEN is set in the new mark word; a read of another field keeps its
decision (R15, R60; log 32). -/
def Obligations.UpkeepFollowsWrites : Prop :=
  (∀ (s : State) (u : SetupBlock) (p : Nat) (v : Word) (c : Instr) (owed : Bool), memoryCanonical s →
    setupValid s → s.setup.active = some u → p < formSize u → s.map.state = .current →
    ((c = .processorTransferCompletion ∧
        s.port = some { owner := .processor none false owed, addr := cellAddr u p, op := .write .word v, orphan := false }) ∨
     (c = .processorTransferCompletion ∧
        s.port = some { owner := .mergeWrite owed, addr := cellAddr u p, op := .write .word v, orphan := false }) ∨
     (c = .composerTransferCompletion ∧
        s.port = some { owner := .composer, addr := cellAddr u p, op := .write .word v, orphan := false })) →
    ∃ t, exec c s = .next t ∧
      ((isMark v = false ∨ s.map.table.length < 256 ∨ entryAt s.map.table p ≠ none) →
        t.map.state = .current ∧
        (∀ q, entryAt t.map.table q =
          if q = p then (if isMark v then some ⟨p, v⟩ else none) else entryAt s.map.table q) ∧
        (c = .processorTransferCompletion →
          t.map.modified = (s.map.modified && !(s.map.table.isEmpty && isMark v)))) ∧
      (isMark v = true → 256 ≤ s.map.table.length → entryAt s.map.table p = none →
        t.map.state = .limit ∧ t.map.table = [] ∧ t.report.pending.getLsbD 6 = true)) ∧
  ∀ (s : State) (u : SetupBlock) (p : Nat) (v : Word) (owner : Owner) (owed : Bool), memoryCanonical s →
    setupValid s → s.setup.active = some u → p < formSize u →
    (owner = .processor none false owed ∨ owner = .mergeWrite owed) →
    s.port = some { owner := owner, addr := cellAddr u p, op := .write .word v, orphan := false } →
    (s.map.state = .rebuilding →
      ∃ t, exec .processorTransferCompletion s = .next t ∧
        (s.map.scanPoint ≤ p → t.map = s.map ∧ t.composerClaim = s.composerClaim) ∧
        (p < s.map.scanPoint →
          (isMark v = false ∨ s.map.table.length < 256 ∨ entryAt s.map.table p ≠ none →
            t.map.state = .rebuilding ∧ t.map.scanPoint = s.map.scanPoint ∧
            t.map.modified = (s.map.modified && !(s.map.table.isEmpty && isMark v)) ∧
            (∀ q, entryAt t.map.table q =
              if q = p then (if isMark v then some ⟨p, v⟩ else none) else entryAt s.map.table q) ∧
            t.composerClaim = s.composerClaim) ∧
          (isMark v = true → 256 ≤ s.map.table.length → entryAt s.map.table p = none →
            t.map = { state := .limit, table := [], scanPoint := s.map.scanPoint, modified := false } ∧
            t.composerClaim = none ∧ t.report.pending.getLsbD 6 = true))) ∧
    (∀ (tr : Transfer) (r : Route) (w q : Nat), s.map.state = .current → s.posting ≠ some .empty →
      s.coldAsserted = false → isMark v = true → entryAt s.map.table p ≠ none → s.inHand = some ⟨tr, .waiting r⟩ →
      tr.access = .read → tr.cls = .nd → maskingOn u = true → decidingWindow u tr = some w →
      windowKind u w = .screen → inHeldRange u s tr.addr = false → formPos u tr.addr = some q →
      ∃ t, exec .processorTransferCompletion s = .next t ∧
        ∀ f, t.lookup q = some f →
          (f.mark = some p →
            t.inHand =
              some ⟨tr, .waiting (if isHidden v = true ∧ isDataOf (formSize u) f q = true then .maskedRead else .pass none)⟩) ∧
          (f.mark ≠ some p → t.inHand = s.inHand))

/-- A processor read granted the port answers the word memory holds; under LIMIT masking, or under a HIDDEN set while it
waited, a data cell is answered as 0020h and a mark cell as it stands (R15, R48, R60). The read of a byte merge completes: the port is taken at once by the
write of the whole cell, the written byte in its lane and the byte read in the other, and the fairness count stands
(R61, R69). -/
def Obligations.ProcessorReadsComplete : Prop :=
  (∀ (s : State) (tr : Transfer) (a : WordAddr) (masked : Bool), claimsJoined s → s.inHand = some ⟨tr, .granted⟩ →
    s.posting ≠ some .empty →
    s.port = some { owner := .processor none masked true, addr := a, op := .read, orphan := false } →
    ∃ t, exec .processorTransferCompletion s = .next t ∧
      besidesStatus t =
        besidesStatus
          { s with
            port := none, inHand := none,
            answer :=
              some (.word (if masked = true ∧ isMark (readWord s.mem a) = false then 0x0020#16 else readWord s.mem a)) }) ∧
  ∀ (s : State) (a : WordAddr) (l : Lanes) (v : Word) (owed : Bool), claimsJoined s → l ≠ .word →
    s.port = some { owner := .mergeRead l v owed, addr := a, op := .read, orphan := false } →
    ∃ t w, exec .mergeReadCompletion s = .next t ∧
      besidesStatus t =
        besidesStatus
          { s with port := some { owner := .mergeWrite owed, addr := a, op := .write .word w, orphan := false } } ∧
      (w.setWidth 8 : Byte) = (if l = .low then v.setWidth 8 else readByte s.mem (byteAddr a)) ∧
      ((w >>> 8).setWidth 8 : Byte) = (if l = .high then (v >>> 8).setWidth 8 else readByte s.mem (byteAddr a + 1))

/-- The decoder takes the posting the composer awaits when no granted processor transfer is in flight: a transfer held or
waiting that falls in the new range is held, and the composer goes on in the same event, with such a transfer in hand as
with none. A data character whose field is found again, or any under WHOLE, is written under its hold. When the working
lookup finds another field, WHOLE is posted, that lookup's table the working table; under WHOLE the field now found is
posted; and NO FIELD at either lookup refuses the token with ERROR 07 (R53, R54, R127, R133, R134). What each token does
once the hold is made is stated in HeldKeysBegin and HeldScanIsJudgedAndWritten. -/
def Obligations.PostingIsTaken : Prop :=
  ∀ (s : State) (u : SetupBlock) (r : HeldRange), claimsJoined s → s.coldAsserted = false →
    s.setup.active = some u → s.posting = some r → s.processorInFlight = false →
    let result : State → Prop := fun X => ∃ t, exec .heldRangePosting s = .next t ∧ besidesStatus t = besidesStatus X
    let taken : State :=
      { rangeTaken r s with
        inHand := s.inHand.map (fun h => ⟨h.transfer, .held .range⟩)
        answer := if s.inHand.isSome then none else s.answer }
    ((∀ h, s.inHand = some h → h.standing ≠ .granted ∧
        ∃ p, formPos u h.transfer.addr = some p ∧ rangeCovers (formSize u) r p = true) →
      (∀ rest, s.composer.todo = .post r :: rest → result (resume (setTodo rest taken))) ∧
      (∀ ch f whole, s.composer.work = .token (.key ch) → isDataCode ch = true →
        s.composer.todo = [.post r, .call (.holdFirst f.mark f.len whole)] →
        s.lookup s.composer.cursor = some f → isDataOf (formSize u) f s.composer.cursor = true →
        isProtected f.word = false → allows (entryType f.word) (foldUpper (isUppercase f.word) ch) = true →
        s.composer.insertMode = false →
        let w : Word := (foldUpper (isUppercase f.word) ch).setWidth 16
        result
          (claiming (cellAddr u s.composer.cursor) (.write .word w)
            [.write s.composer.cursor w, .call .setModified, .call .charWritten] (holdOn f taken))) ∧
      (∀ m l f, s.composer.todo = [.post r, .call (.holdFirst m l false)] → s.lookup s.composer.cursor = some f →
        ¬(f.mark = m ∧ f.len = l) →
        result (awaiting .whole .holdWhole { taken with composer.workingTable := some s.map.table })) ∧
      (∀ f, s.composer.todo = [.post r, .call .holdWhole] → s.lookup s.composer.cursor = some f →
        result (awaiting (heldRangeOf s.map.table f) .holdNarrow (holdOn f taken)))) ∧
    (∀ k, postingDue u r k s → ((∃ m l w, k = .holdFirst m l w) ∨ k = .holdWhole) →
      s.lookup s.composer.cursor = none →
      (∀ code, s.composer.work = .token (.key code) → result (refusedAt s.composer.cursor .formatLimit s)) ∧
      ∀ i, s.composer.work = .token (.scan i) →
        result (slotFreed i (refusedAt s.composer.cursor .formatLimit s)))

/-! ### Report words -/

/-- A read of word 0 answers the live STATE word and latches words 1 to 15; a read of word 16 answers the pending
set and makes the seen set equal to it (R168, R185). The live words are laid out field by field: STATE, FIELD, DSTAT and
SLOTS as 12.4 gives their bits, the others as numbers (R24, R167, R203). -/
def Obligations.StateAndCauseReads : Prop :=
  (∀ (s : State) (u : SetupBlock) (cls : AccessClass) (l : Lanes), claimsJoined s → s.inHand = none →
    s.setup.active = some u →
    (decideTransfer s { addr := reportAddr u 0, lanes := l, cls := cls, access := .read } = .report 0 →
      ∃ t, exec (.readStateWord cls l) s = .next t ∧
        besidesStatus t =
          besidesStatus
            { s with answer := some (.word (stateWord s)), report.snapshot := liveWords s, report.snapshotValid := true }) ∧
    (decideTransfer s { addr := reportAddr u 16, lanes := l, cls := cls, access := .read } = .report 16 →
      ∃ t, exec (.readCauseWord cls l) s = .next t ∧
        besidesStatus t =
          besidesStatus
            { s with answer := some (.word (s.report.pending.setWidth 16)), report.seen := s.report.pending })) ∧
  ∀ s : State,
    (stateWord s).toNat =
      (match s.setup.state with | .unset => 0 | .applying => 1 | .active => 2) +
        4 * (match s.map.state with | .unbuilt => 0 | .rebuilding => 1 | .current => 2 | .limit => 3) +
        16 * (match s.composer.engine with | .idle => 0 | .token => 1 | .send => 2 | .directive => 3 | .paused => 4) +
        (match s.lock with
         | .opened => 0
         | .system .start => 256 * 1 + 1024 * 1
         | .system .send => 256 * 1 + 1024 * 2
         | .system .directive => 256 * 1 + 1024 * 3
         | .error .isProtected => 256 * 2 + 4096 * 1
         | .error .fieldFull => 256 * 2 + 4096 * 2
         | .error .wrongCharacter => 256 * 2 + 4096 * 3
         | .error .checkDigit => 256 * 2 + 4096 * 4
         | .error .mustEnter => 256 * 2 + 4096 * 5
         | .error .mustFill => 256 * 2 + 4096 * 6
         | .error .formatLimit => 256 * 2 + 4096 * 7) +
        32768 * (if s.composer.insertMode then 1 else 0) ∧
    (let field : Word :=
       match s.lookup s.composer.cursor with
       | some f => if f.mark = none then 0xFFFF#16 else BitVec.ofNat 16 f.index
       | none => 0xFFFF#16
     let dstat :=
       (match s.report.intake.state with | .none => 0 | .pending => 1 | .running => 2 | .completed => 3) +
         16 * (match s.report.intake.completion with
               | .none => 0 | .done => 1 | .doneTruncated => 2 | .refusedRange => 3 | .refusedState => 4
               | .refusedUnknown => 5 | .aborted => 6) +
         256 * (if s.report.intake.overlap then 1 else 0)
     let slot : Fin 4 → Nat := fun i =>
       match (getSlot s.slots i).state with | .free => 0 | .collecting => 1 | .ready => 2 | .queued => 3 | .taken => 4
     liveWords s =
       [BitVec.ofNat 16 s.composer.cursor, field, BitVec.ofNat 16 s.map.table.length, BitVec.ofNat 16 dstat,
        s.report.intake.code.setWidth 16, s.report.operand, BitVec.ofNat 16 s.queue.length,
        BitVec.ofNat 16 (slot 0 + 16 * slot 1 + 256 * slot 2 + 4096 * slot 3), s.timer.counter,
        s.report.counters.suppress, s.report.counters.lost, s.report.counters.discard, s.report.counters.scanDrop,
        s.report.counters.lineError, 0x0000#16])

/-- The directive intake, by its state and the code of a word write to word 5 (R172, R173): both rows. -/
def Obligations.DirectiveWriteTable : Prop :=
  ∀ (s : State) (u : SetupBlock) (cls : AccessClass) (v : Word) (c : Instr), s.setup.active = some u →
    (c = .directiveIntake cls v ∨ c = .unknownDirective cls v) → writeRuns (some 5) (reportAddr u 5) cls v s →
    ((s.report.intake.state = .pending ∨ s.report.intake.state = .running) →
      ∃ t, exec c s = .next t ∧
        besidesStatus t =
          besidesStatus { afterWrite (reportAddr u 5) v s with report.intake.overlap := true }) ∧
    ((s.report.intake.state = .none ∨ s.report.intake.state = .completed) →
      (1 ≤ v.toNat % 256 ∧ v.toNat % 256 ≤ 9 →
        ∃ t, exec c s = .next t ∧
          besidesStatus t =
            besidesStatus
              { afterWrite (reportAddr u 5) v s with
                report.intake :=
                  { state := .pending, code := v.setWidth 8, operand := s.report.operand, completion := .none,
                    overlap := false } }) ∧
      (v.toNat % 256 = 0 ∨ 9 < v.toNat % 256 →
        ∃ t, exec c s = .next t ∧
          besidesCauses t =
            besidesCauses
              { afterWrite (reportAddr u 5) v s with
                report.intake :=
                  { state := .completed, code := v.setWidth 8, operand := s.report.operand,
                    completion := .refusedUnknown, overlap := false } } ∧
          t.report.pending = s.report.pending ||| 0x02#8 ∧ t.report.seen = s.report.seen &&& ~~~0x02#8))

/-- Word writes to the operand word, to a counter's word with 0000h, and to a word with no action (R170, R171,
R172): each lands in memory, and only the operand or the counter changes. -/
def Obligations.OperandAndCounterWrites : Prop :=
  ∀ (s : State) (u : SetupBlock) (cls : AccessClass) (v : Word), s.setup.active = some u →
    (writeRuns (some 6) (reportAddr u 6) cls v s →
      ∃ t, exec (.writeOperand cls v) s = .next t ∧
        besidesStatus t = besidesStatus { afterWrite (reportAddr u 6) v s with report.operand := v }) ∧
    (∀ k : Counter, writeRuns (some (counterWord k)) (reportAddr u (counterWord k).val) cls 0#16 s →
      ∃ t, exec (.clearCounter cls k) s = .next t ∧
        besidesStatus t =
          besidesStatus
            { afterWrite (reportAddr u (counterWord k).val) 0#16 s with
              report.counters := setCounter s.report.counters k 0#16 }) ∧
    (∀ i : Fin 32, (i.val ≤ 4 ∨ (7 ≤ i.val ∧ i.val ≤ 9) ∨ i.val = 15 ∨ 17 ≤ i.val) →
      writeRuns (some i) (reportAddr u i.val) cls v s →
      ∃ t, exec (.reportWordWrite cls i v) s = .next t ∧
        besidesStatus t = besidesStatus (afterWrite (reportAddr u i.val) v s))

/-- A word write to word 16 removes from the pending set each seen cause whose bit is written 0, empties the seen
set, and ATTN follows (R186, R188). -/
def Obligations.CauseWordWriteClearsSeenCauses : Prop :=
  ∀ (s : State) (u : SetupBlock) (cls : AccessClass) (v : Word), s.setup.active = some u →
    writeRuns (some 16) (reportAddr u 16) cls v s →
    ∃ t, exec (.clearCauses cls v) s = .next t ∧
      (∀ b < 8, t.report.pending.getLsbD b =
        (s.report.pending.getLsbD b && !(s.report.seen.getLsbD b && !v.getLsbD b))) ∧
      t.report.seen = 0#8 ∧ t.report.pulse = s.report.pulse ∧
      t.attn = (if pulseMode u then s.report.pulse else t.report.pending &&& causeEnables u != 0#8) ∧
      besidesCauses t = besidesCauses (afterWrite (reportAddr u 16) v s)

/-! ### Setup -/

/-- A word write to the apply word: a nonzero value in UNSET or ACTIVE requests an apply; 0000h, or any value in
APPLYING, is ignored (R66, R193). -/
def Obligations.ApplyWordWriteTable : Prop :=
  ∀ (s : State) (cls : AccessClass) (v : Word), writeRuns none (setupAddr s.setup.strap 31) cls v s →
    (v ≠ 0#16 → s.setup.state ≠ .applying →
      ∃ t, exec (.applyRequest cls v) s = .next t ∧
        besidesStatus t =
          besidesStatus
            { afterWrite (setupAddr s.setup.strap 31) v s with
              setup.prior := s.setup.state, setup.state := .applying, setup.applyWaits := true }) ∧
    (v = 0#16 ∨ s.setup.state = .applying →
      ∃ t, exec (.applyRequest cls v) s = .next t ∧
        besidesStatus t = besidesStatus (afterWrite (setupAddr s.setup.strap 31) v s))

/-- The composer takes the apply and is PAUSED, its working table the table at the taking (R127); each word read is kept
and the next is claimed, up to word 19 (R194, R195). The result word is written and then the apply word cleared; the result
event offers SETUP RESULT, and after a refusal the prior state returns and the composer is IDLE (R197, R199). -/
def Obligations.ApplyFetchesAndAnswers : Prop :=
  (∀ s : State, claimsJoined s →
    (s.composer.engine = .idle → s.setup.applyWaits = true →
      ∃ t, exec .applyTaken s = .next t ∧
        besidesStatus t =
          besidesStatus
            { s with
              composer.engine := .paused, composer.work := .apply, composer.workingTable := some s.map.table,
              setup.applyWaits := false, setup.fetched := [],
              setupClaim := some { owner := .setupRead, addr := setupAddr s.setup.strap 0, op := .read, orphan := false } }) ∧
    (∀ a, s.port = some { owner := .setupRead, addr := a, op := .read, orphan := false } →
      s.setup.fetched.length < 19 →
      ∃ t, exec .setupReadCompletion s = .next t ∧
        besidesStatus t =
          besidesStatus
            { s with
              port := none, setup.fetched := s.setup.fetched ++ [readWord s.mem a],
              setupClaim :=
                some { owner := .setupRead, addr := setupAddr s.setup.strap (s.setup.fetched.length + 1), op := .read,
                       orphan := false } })) ∧
  ∀ (s : State) (a : WordAddr) (v : Word), claimsJoined s →
    (s.port = some { owner := .setupResult, addr := a, op := .write .word v, orphan := false } →
      ∃ t, exec .resultWordWriteCompletion s = .next t ∧
        besidesStatus t =
          besidesStatus
            { s with
              mem := writeLanes s.mem a .word v, port := none,
              setupClaim :=
                some { owner := .setupClear, addr := setupAddr s.setup.strap 31, op := .write .word 0#16,
                       orphan := false } }) ∧
    (s.port = some { owner := .setupClear, addr := a, op := .write .word v, orphan := false } →
      s.composer.work = .apply →
      ∃ t, exec .resultEvent s = .next t ∧ t.report.pending = s.report.pending ||| 0x80#8 ∧
        t.report.seen = s.report.seen &&& ~~~0x80#8 ∧
        (s.setup.result = some 0x0001#16 →
          besidesCauses t =
            besidesCauses
              { s with mem := writeLanes s.mem a .word v, port := none, setup.fetched := [], setup.result := none }) ∧
        (s.setup.result ≠ some 0x0001#16 →
          besidesCauses t =
            besidesCauses
              { s with
                mem := writeLanes s.mem a .word v, port := none, setup.fetched := [], setup.result := none,
                setup.state := s.setup.prior,
                composer :=
                  { idleWith s.composer.cursor s.composer.insertMode s.composer with
                    posted := s.composer.posted } }))

/-- The order of the checks: the first that fails gives the result (R196), with the ranges of geometry, capacity
and timer limits and the windows check written out. -/
def Obligations.FirstFailingCheckDecides : Prop :=
  ∀ (k : BitVec 4) (u : SetupBlock),
    let badGeometry := setupRows u < 1 ∨ 32 < setupRows u ∨ setupCols u < 8 ∨ 160 < setupCols u ∨
      4096 < setupRows u * setupCols u ∨ (statusRowOn u = true ∧ setupCols u < 24)
    let badCapacity := (setupWord u 14).toNat < 16 ∨ 4096 < (setupWord u 14).toNat
    let entries : WindowKind → Nat := fun kind => ((List.range 4).filter (fun w => windowKind u w == kind)).length
    let size : Nat → Nat := fun w => 512 * 2 ^ windowSizeCode u w
    let used := 2 * (setupRows u * setupCols u + (if statusRowOn u then setupCols u else 0) + 1)
    let strapBase := k.toNat * 0x100000 + 0x0FFFC0
    let badWindows := entries .screen ≠ 1 ∨ entries .report ≠ 1 ∨ 1 < entries .return ∨
      ∃ w < 4, windowKind u w ≠ .disabled ∧
        (11 < windowSizeCode u w ∨ windowBase u w % size w ≠ 0 ∨
          (windowKind u w = .screen ∧ size w < used) ∨
          (windowKind u w = .return ∧ size w < 2 * (setupWord u 14).toNat) ∨
          (windowBase u w < strapBase + 64 ∧ strapBase < windowBase u w + size w) ∨
          ((windowKind u w = .return ∨ windowKind u w = .report) ∧
            ∃ v < 4, windowKind u v = .screen ∧ windowBase u w < windowBase u v + used ∧
              windowBase u v < windowBase u w + size w))
    let badFormat := scannerRate u = none ∨ scannerParity u = none ∨
      (0x80 ≤ (setupTerminator u).toNat ∧ setupTerminator u ≠ 0xFF#8)
    let badLimits := (setupWord u 18).toNat < 5 ∨ 1000 < (setupWord u 18).toNat ∨ 30000 < (setupWord u 19).toNat
    (validate k u = 0x8001#16 ↔ badGeometry) ∧
    (validate k u = 0x8003#16 ↔ ¬badGeometry ∧ badCapacity) ∧
    (validate k u = 0x8002#16 ↔ ¬badGeometry ∧ ¬badCapacity ∧ badWindows) ∧
    (validate k u = 0x8004#16 ↔ ¬badGeometry ∧ ¬badCapacity ∧ ¬badWindows ∧ badFormat) ∧
    (validate k u = 0x8005#16 ↔ ¬badGeometry ∧ ¬badCapacity ∧ ¬badWindows ∧ ¬badFormat ∧ badLimits) ∧
    (validate k u = 0x0001#16 ↔ ¬badGeometry ∧ ¬badCapacity ∧ ¬badWindows ∧ ¬badFormat ∧ ¬badLimits)

/-- The read of word 19 judges the block. A refused one changes nothing but the result to be written (R196, R197);
an accepted one becomes the active setup in that event, every block taking its new values and the rebuild starting; a
transfer in hand, unless granted, is decided anew under the new window table, as if it arrived then (R18, R52, R70, R86,
R104, R125, R183, R198). -/
def Obligations.LastSetupReadJudgesAndSwitches : Prop :=
  ∀ (s : State) (a : WordAddr), claimsJoined s →
    s.port = some { owner := .setupRead, addr := a, op := .read, orphan := false } → s.setup.fetched.length = 19 →
    let u := s.setup.fetched ++ [readWord s.mem a]
    let r := validate s.setup.strap u
    let claim : PortTransfer :=
      { owner := .setupResult, addr := setupAddr s.setup.strap 30, op := .write .word r, orphan := false }
    (r ≠ 0x0001#16 →
      ∃ t, exec .setupReadCompletion s = .next t ∧
        besidesStatus t =
          besidesStatus { s with port := none, setup.fetched := u, setup.result := some r, setupClaim := some claim }) ∧
    (r = 0x0001#16 →
      ∃ t, exec .setupReadCompletion s = .next t ∧ t.mem = s.mem ∧ t.port = none ∧ t.setupClaim = some claim ∧
        t.setup.active = some u ∧ t.setup.state = .active ∧ t.setup.result = some 0x0001#16 ∧
        t.map.state = .rebuilding ∧ t.map.table = [] ∧ t.map.scanPoint = 0 ∧ t.map.modified = s.map.modified ∧
        t.composerClaim = some { owner := .mapScan, addr := cellAddr u 0, op := .read, orphan := false } ∧
        t.composer.cursor = (if s.composer.cursor < formSize u then s.composer.cursor else 0) ∧
        t.composer.insertMode = s.composer.insertMode ∧ t.composer.engine = s.composer.engine ∧
        t.terminator = (setupWord u 17).setWidth 8 ∧ t.timer.gapLimit = setupWord u 18 ∧
        t.timer.holdoffTicks = setupWord u 19 ∧ t.timer.gap = s.timer.gap ∧ t.timer.holdoff = s.timer.holdoff ∧
        (s.scanner.state = .idle → some t.lineFormat = scannerFormat u ∧ t.pendingFormat = none) ∧
        (s.scanner.state ≠ .idle → t.lineFormat = s.lineFormat ∧ t.pendingFormat = scannerFormat u) ∧
        t.report.statusLeft = statusImage u t ∧ t.report.updateRequested = false ∧
        t.queue = s.queue ∧ t.claimOrder = s.claimOrder ∧ t.slots = s.slots ∧ t.record = s.record ∧ t.lock = s.lock ∧
        (∀ tr st, s.inHand = some ⟨tr, st⟩ → st ≠ .granted →
          ∃ t0, exec .setupReadCompletion { s with inHand := none } = .next t0 ∧ arrivedAt tr t0 t) ∧
        (s.inHand = none →
          besidesStatus t =
            besidesStatus
              { s with
                port := none, setupClaim := some claim,
                setup := { s.setup with active := some u, state := .active, fetched := u, result := some 0x0001#16 },
                map := { state := .rebuilding, table := [], scanPoint := 0, modified := s.map.modified },
                composerClaim := some { owner := .mapScan, addr := cellAddr u 0, op := .read, orphan := false },
                composer.cursor := if s.composer.cursor < formSize u then s.composer.cursor else 0,
                terminator := (setupWord u 17).setWidth 8, timer.gapLimit := setupWord u 18,
                timer.holdoffTicks := setupWord u 19, lineFormat := t.lineFormat, pendingFormat := t.pendingFormat,
                report.pulse := false,
                attn := !pulseMode u && (s.report.pending &&& causeEnables u != 0#8) }))

/-- RBLD empties the table, starts the scan at position 0 and leaves the composer PAUSED, its working table the table at
the taking, with the intake RUNNING (R18, R125, R127, R180). A rebuild read: a mark is added at the top and the scan point
advances; the last cell ends the scan in CURRENT; a 257th mark, read by the scan or inserted below the scan point by a
write of the processor, ends it in LIMIT, offering FORMAT LIMIT (R7, R19 to R21; that the scan point then stays, and that a
claim not granted is withdrawn, is the model's, log 33). At the end the composer
leaves PAUSED: an apply's has no more to do, RBLD completes with DONE; and a transfer held through the rebuild is decided
anew, as if it arrived then (R21, R58, R60, R125, R180). -/
def Obligations.RebuildRunsToItsEnd : Prop :=
  (∀ (s : State) (u : SetupBlock), claimsJoined s → s.setup.active = some u → directiveReady .rbld s →
    ∃ t, exec .rbld s = .next t ∧
      besidesStatus t =
        besidesStatus
          { s with
            composer.engine := .paused, composer.work := .directive .rbld s.report.intake.operand,
            composer.workingTable := some s.map.table,
            report.intake.state := .running, map.state := .rebuilding, map.table := [], map.scanPoint := 0,
            composerClaim := some { owner := .mapScan, addr := cellAddr u 0, op := .read, orphan := false } }) ∧
  (∀ (s : State) (u : SetupBlock) (p : Nat) (v : Word) (tr : Transfer), claimsJoined s → memoryCanonical s →
    setupValid s → s.setup.active = some u → s.map.state = .rebuilding → p < formSize u → p < s.map.scanPoint →
    isMark v = true → 256 ≤ s.map.table.length → entryAt s.map.table p = none →
    s.inHand = some ⟨tr, .granted⟩ → s.posting ≠ some .empty →
    s.port = some { owner := .processor none false true, addr := cellAddr u p, op := .write .word v, orphan := false } →
    let limit : State :=
      { s with
        mem := writeLanes s.mem (cellAddr u p) .word v, port := none, inHand := none, answer := some .written,
        composerClaim := none,
        map := { state := .limit, table := [], scanPoint := s.map.scanPoint, modified := false },
        composer := { idleWith s.composer.cursor s.composer.insertMode s.composer with posted := s.composer.posted } }
    (s.composer.work = .apply →
      ∃ t, exec .processorTransferCompletion s = .next t ∧ t.report.pending = s.report.pending ||| 0x40#8 ∧
        t.report.seen = s.report.seen &&& ~~~0x40#8 ∧ besidesCauses t = besidesCauses limit) ∧
    (∀ op, s.composer.work = .directive .rbld op → s.report.intake.state = .running →
      ∃ t, exec .processorTransferCompletion s = .next t ∧ t.report.pending = s.report.pending ||| 0x42#8 ∧
        t.report.seen = s.report.seen &&& ~~~0x42#8 ∧
        besidesCauses t =
          besidesCauses { limit with report.intake.state := .completed, report.intake.completion := .done })) ∧
  ∀ (s : State) (u : SetupBlock) (a : WordAddr), claimsJoined s → s.setup.active = some u →
    s.map.state = .rebuilding →
    s.port = some { owner := .mapScan, addr := a, op := .read, orphan := false } →
    let w := readWord s.mem (cellAddr u s.map.scanPoint)
    let table := if isMark w then s.map.table ++ [⟨s.map.scanPoint, w⟩] else s.map.table
    let idle : Composer :=
      { idleWith s.composer.cursor s.composer.insertMode s.composer with posted := s.composer.posted }
    let current : State :=
      { s with
        port := none,
        map :=
          { state := .current, table := table, scanPoint := s.map.scanPoint + 1,
            modified := s.map.modified && table.isEmpty },
        composer := idle }
    let limit : State :=
      { s with
        port := none, composerClaim := none,
        map := { state := .limit, table := [], scanPoint := s.map.scanPoint, modified := false }, composer := idle }
    let fits := isMark w = false ∨ s.map.table.length < 256
    (fits → s.map.scanPoint + 1 < formSize u →
      ∃ t, exec .scanReadCompletion s = .next t ∧
        besidesStatus t =
          besidesStatus
            { s with
              port := none, map.table := table, map.scanPoint := s.map.scanPoint + 1,
              map.modified := s.map.modified && !(isMark w && s.map.table.isEmpty),
              composerClaim :=
                some { owner := .mapScan, addr := cellAddr u (s.map.scanPoint + 1), op := .read, orphan := false } }) ∧
    (s.inHand = none → s.composer.work = .apply →
      (fits → formSize u ≤ s.map.scanPoint + 1 →
        ∃ t, exec .scanReadCompletion s = .next t ∧ besidesStatus t = besidesStatus current) ∧
      (¬fits →
        ∃ t, exec .scanReadCompletion s = .next t ∧ t.report.pending = s.report.pending ||| 0x40#8 ∧
          t.report.seen = s.report.seen &&& ~~~0x40#8 ∧ besidesCauses t = besidesCauses limit)) ∧
    (∀ op, s.inHand = none → s.composer.work = .directive .rbld op → s.report.intake.state = .running →
      (fits → formSize u ≤ s.map.scanPoint + 1 →
        ∃ t, exec .scanReadCompletion s = .next t ∧ t.report.pending = s.report.pending ||| 0x02#8 ∧
          t.report.seen = s.report.seen &&& ~~~0x02#8 ∧
          besidesCauses t =
            besidesCauses
              { current with report.intake.state := .completed, report.intake.completion := .done }) ∧
      (¬fits →
        ∃ t, exec .scanReadCompletion s = .next t ∧ t.report.pending = s.report.pending ||| 0x42#8 ∧
          t.report.seen = s.report.seen &&& ~~~0x42#8 ∧
          besidesCauses t =
            besidesCauses
              { limit with report.intake.state := .completed, report.intake.completion := .done })) ∧
    (∀ tr, s.inHand = some ⟨tr, .held .rebuild⟩ → (s.composer.work = .apply ∨ ∃ op, s.composer.work = .directive .rbld op) →
      (¬fits ∨ formSize u ≤ s.map.scanPoint + 1) →
      ∃ t t0, exec .scanReadCompletion s = .next t ∧ exec .scanReadCompletion { s with inHand := none } = .next t0 ∧
        arrivedAt tr t0 t)

/-! ### Lines, scans and the timer -/

/-- A keyboard frame: with an error it offers LINE ERROR; unassigned it is discarded; with the holding stage FULL it
is an overrun; else its code joins the queue, or waits in the holding stage when the queue is full, behind the scan
claims of earlier ticks and ahead of those of this one (R79 to R83, R108, R109). -/
def Obligations.KeyboardFrameTable : Prop :=
  ∀ (s : State) (code : Byte) (pe fe : Bool), claimsJoined s → s.coldAsserted = false →
    let assigned := (0x20 ≤ code.toNat ∧ code.toNat ≤ 0x7E) ∨ (0x80 ≤ code.toNat ∧ code.toNat ≤ 0x8F) ∨
      (0xC0 ≤ code.toNat ∧ code.toNat ≤ 0xCC) ∨ code.toNat = 0xCF
    ∃ t, exec (.keyboardFrame code pe fe) s = .next t ∧ t.keyboard.state = (if fe then .recover else .idle) ∧
      ((pe = true ∨ fe = true) →
        t.report.pending = s.report.pending ||| 0x08#8 ∧ t.report.seen = s.report.seen &&& ~~~0x08#8 ∧
          besidesCauses t =
            besidesCauses
              { s with
                keyboard := t.keyboard, report.counters.lineError := countUp s.report.counters.lineError }) ∧
      (pe = false → fe = false →
        (¬assigned → besidesStatus t = besidesStatus { s with keyboard := t.keyboard }) ∧
        (assigned →
          (∀ h, s.holding = some h →
            t.report.pending = s.report.pending ||| 0x10#8 ∧ t.report.seen = s.report.seen &&& ~~~0x10#8 ∧
              besidesCauses t =
                besidesCauses
                  { s with keyboard := t.keyboard, report.counters.lost := countUp s.report.counters.lost }) ∧
          (s.holding = none → s.queue.length < 32 →
            besidesStatus t =
              besidesStatus { s with keyboard := t.keyboard, queue := s.queue ++ [.key code], claimOrder := [] }) ∧
          (s.holding = none → 32 ≤ s.queue.length →
            besidesStatus t =
              besidesStatus
                { s with
                  keyboard := t.keyboard, holding := some ⟨code, s.timer.counter⟩,
                  claimOrder :=
                    s.claimOrder.takeWhile (fun c => !c.fresh) ++ ⟨.held, true⟩ ::
                      s.claimOrder.dropWhile (fun c => !c.fresh) })))

/-- A scanner frame that is not a terminator frame: with no scan in progress it starts one in the lowest FREE slot,
or a lost scan offering LOSS and a count; in a scan it is appended with the four flags as R96 gives; in a lost scan
it is discarded. Each arms the gap compare (R94 to R96; the first frame of a lost scan, log 17). A terminator frame with no
scan in progress changes nothing, and it ends a lost scan (R94, R97). The receiver's entry into IDLE takes a pending
format, before the frame from RECOVER (log 9), after it with a stop bit judged mark (R86). -/
def Obligations.ScannerFrameCollected : Prop :=
  ∀ (s : State) (code : Byte) (pe fe : Bool), claimsJoined s → s.coldAsserted = false →
    let format := if s.scanner.state = .recover then s.pendingFormat.getD s.lineFormat else s.lineFormat
    (format.eight = true ∨ code.toNat < 0x80) → (pe = true → format.parity ≠ .none) →
    let entersIdle := s.scanner.state = .recover ∨ fe = false
    let terminates := s.terminator ≠ 0xFF#8 ∧ code = s.terminator ∧ pe = false ∧ fe = false
    let store : ScanSlot → ScanSlot := fun v =>
      { v with
        chars := if v.chars.length < 40 then v.chars ++ [code] else v.chars
        overflow := v.overflow || decide (40 ≤ v.chars.length)
        illegal := v.illegal || !(decide (0x20 ≤ code.toNat) && decide (code.toNat ≤ 0x7E))
        parity := v.parity || pe
        framing := v.framing || fe }
    let fresh : ScanSlot :=
      { state := .collecting, chars := [], parity := false, framing := false, illegal := false, overflow := false,
        stamp := none }
    let causes : Byte := if pe || fe then s.report.pending ||| 0x08#8 else s.report.pending
    ∃ t, exec (.scannerFrame code pe fe) s = .next t ∧
      (entersIdle → t.lineFormat = s.pendingFormat.getD s.lineFormat ∧ t.pendingFormat = none) ∧
      (¬entersIdle → t.lineFormat = s.lineFormat ∧ t.pendingFormat = s.pendingFormat) ∧
      (t.scanner.state = if fe then .recover else .idle) ∧
      (terminates →
        (s.collecting = .none →
          besidesStatus t =
            besidesStatus
              { s with scanner := t.scanner, lineFormat := t.lineFormat, pendingFormat := t.pendingFormat }) ∧
        (s.collecting = .losing →
          besidesStatus t =
            besidesStatus
              { s with
                scanner := t.scanner, lineFormat := t.lineFormat, pendingFormat := t.pendingFormat,
                collecting := .none, timer.gap := none })) ∧
      (¬terminates →
        besidesCauses t =
          besidesCauses
            { s with
              scanner := t.scanner, lineFormat := t.lineFormat, pendingFormat := t.pendingFormat,
              collecting := t.collecting, slots := t.slots,
              timer.gap := some (s.timer.counter + s.timer.gapLimit),
              report.counters.lineError :=
                (if pe || fe then countUp s.report.counters.lineError else s.report.counters.lineError),
              report.counters.lost := t.report.counters.lost } ∧
        (s.collecting = .none →
          (∀ i, (getSlot s.slots i).state = .free → (∀ j < i, (getSlot s.slots j).state ≠ .free) →
            t.collecting = .collecting i ∧ getSlot t.slots i = store fresh ∧
              (∀ j, j ≠ i → getSlot t.slots j = getSlot s.slots j) ∧
              t.report.pending = causes ∧ t.report.counters.lost = s.report.counters.lost) ∧
          ((∀ i, (getSlot s.slots i).state ≠ .free) →
            t.collecting = .losing ∧ t.slots = s.slots ∧ t.report.pending = causes ||| 0x10#8 ∧
              t.report.counters.lost = countUp s.report.counters.lost)) ∧
        (∀ i, s.collecting = .collecting i →
          t.collecting = .collecting i ∧ getSlot t.slots i = store (getSlot s.slots i) ∧
            (∀ j, j ≠ i → getSlot t.slots j = getSlot s.slots j) ∧
            t.report.pending = causes ∧ t.report.counters.lost = s.report.counters.lost) ∧
        (s.collecting = .losing →
          t.collecting = .losing ∧ t.slots = s.slots ∧ t.report.pending = causes ∧
            t.report.counters.lost = s.report.counters.lost))

/-- The end of a scan, by the gap compare or by a terminator frame: an error mark, or a match with the valid record,
drops it, freeing its slot with SCAN DROP, a count and a tone; else it is accepted, the record replaced and the
holdoff armed or disarmed, and its claim joins the queue or waits in the claim order (R97 to R101, R103, R109). -/
def Obligations.ScanJudgedAtItsEnd : Prop :=
  ∀ (s : State) (i : Fin 4) (c : Instr), claimsJoined s → s.coldAsserted = false → s.collecting = .collecting i →
    ((c = .gapCompareExpiry ∧ s.timer.gap = some s.timer.counter) ∨
     (c = .scannerFrame s.terminator false false ∧ s.terminator.toNat < 0x80)) →
    let v := getSlot s.slots i
    let bad := v.parity = true ∨ v.framing = true ∨ v.illegal = true ∨ v.overflow = true
    let same := s.record.valid = true ∧ v.chars = s.record.chars
    ∃ t, exec c s = .next t ∧
      besidesCauses t =
        besidesCauses
          { s with
            scanner := t.scanner, lineFormat := t.lineFormat, pendingFormat := t.pendingFormat, collecting := .none,
            slots := t.slots, record := t.record, queue := t.queue, claimOrder := t.claimOrder, timer := t.timer,
            tone := t.tone, report.counters := t.report.counters } ∧
      (c = .gapCompareExpiry → t.scanner = s.scanner ∧ t.lineFormat = s.lineFormat ∧ t.pendingFormat = s.pendingFormat) ∧
      (∀ j, j ≠ i → getSlot t.slots j = getSlot s.slots j) ∧
      ((bad ∨ same) →
        getSlot t.slots i = { v with state := .free, stamp := none } ∧ t.record = s.record ∧ t.queue = s.queue ∧
          t.claimOrder = s.claimOrder ∧ t.report.pending = s.report.pending ||| 0x04#8 ∧
          t.report.counters = { s.report.counters with scanDrop := countUp s.report.counters.scanDrop } ∧
          t.tone = true ∧ t.timer = { s.timer with gap := none, toneCompare := some (s.timer.counter + 1000#16) }) ∧
      (¬bad → ¬same →
        t.record = { valid := decide (s.timer.holdoffTicks ≠ 0#16), chars := v.chars } ∧
          t.timer =
            { s.timer with
              gap := none
              holdoff :=
                if s.timer.holdoffTicks = 0#16 then none else some (s.timer.counter + s.timer.holdoffTicks) } ∧
          t.report.pending = s.report.pending ∧ t.report.counters = s.report.counters ∧ t.tone = s.tone ∧
          (s.queue.length < 32 →
            getSlot t.slots i = { v with state := .queued, stamp := some s.timer.counter } ∧
              t.queue = s.queue ++ [.scan i] ∧ t.claimOrder = []) ∧
          (32 ≤ s.queue.length →
            getSlot t.slots i = { v with state := .ready, stamp := some s.timer.counter } ∧ t.queue = s.queue ∧
              t.claimOrder = s.claimOrder ++ [⟨.slot i, true⟩]))

/-- The holdoff compare's expiry marks the record invalid, the tone compare's drives TONE inactive, the gap compare's ends
a lost scan with nothing further (R90, R91, R98, R102). A tick with no compare due: the counter rises by one, from 65535
to 0, the waiting claims become those of an earlier tick, and nothing else changes (R89, R108). A compare still due at a
tick expires before it (log 8): with the tone compare alone due, TONE becomes inactive. -/
def Obligations.ComparesExpireAndTicksCount : Prop :=
  (∀ s : State, claimsJoined s →
    (s.timer.holdoff = some s.timer.counter →
      ∃ t, exec .holdoffCompareExpiry s = .next t ∧
        besidesStatus t = besidesStatus { s with timer.holdoff := none, record.valid := false }) ∧
    (s.timer.toneCompare = some s.timer.counter →
      ∃ t, exec .toneCompareExpiry s = .next t ∧
        besidesStatus t = besidesStatus { s with timer.toneCompare := none, tone := false }) ∧
    (s.timer.gap = some s.timer.counter → s.collecting = .losing →
      ∃ t, exec .gapCompareExpiry s = .next t ∧
        besidesStatus t = besidesStatus { s with timer.gap := none, collecting := .none })) ∧
  ∀ s : State, claimsJoined s → s.coldAsserted = false → s.timer.gap ≠ some s.timer.counter →
    s.timer.holdoff ≠ some s.timer.counter →
    (s.timer.toneCompare ≠ some s.timer.counter →
      ∃ t, exec .keyingTimerTick s = .next t ∧
        besidesStatus t =
          besidesStatus
            { s with
              timer.counter := s.timer.counter + 1#16
              claimOrder := s.claimOrder.map (fun c => { c with fresh := false }) }) ∧
    (s.timer.toneCompare = some s.timer.counter →
      ∃ t, exec .keyingTimerTick s = .next t ∧
        besidesStatus t =
          besidesStatus
            { s with
              tone := false
              timer.toneCompare := none
              timer.counter := s.timer.counter + 1#16
              claimOrder := s.claimOrder.map (fun c => { c with fresh := false }) })

/-- Samples of either line. In IDLE a mark is noted, and a space after one is a start edge; in RECOVER the sixteenth mark
in a row ends it. Inside a frame only samples 16b + 7 to 16b + 9 count, and two or three of the three give bit b: a start
bit judged mark is rejected, a data bit goes into the shift stage, the last leads to PARITY or STOP, the parity bit is
compared, and the stop bit completes the frame, into IDLE or RECOVER. An entry of the scanner receiver into IDLE takes a
pending format. What the completed frame then does is what KEYBOARD_FRAME and SCANNER_FRAME do with its result; and the
third stop sample of a good keyboard frame of an assigned code puts its token in a queue with room
(R73 to R78, R80, R83, R86). -/
def Obligations.LineSamplesMakeFrames : Prop :=
  (∀ (l : Line) (level : Level) (s : State), claimsJoined s → s.coldAsserted = false →
    let r := rxOf l s
    let fm := formatOf l s
    let last := if fm.eight then 8 else 7
    let mark := level = .mark
    let result : State → Prop := fun X => ∃ t, exec (.lineSample l level) s = .next t ∧ besidesStatus t = besidesStatus X
    let idle : Receiver := { r with state := .idle, seenIdle := true }
    let inFrame := r.state = .startCheck ∨ r.state = .data ∨ r.state = .parity ∨ r.state = .stop
    let m := r.sample + 1
    let votes := r.votes + if mark then 1 else 0
    (r.state = .idle →
      (mark → result (withRx l { r with seenIdle := true } s)) ∧
      (¬mark → r.seenIdle = false → result s) ∧
      (¬mark → r.seenIdle = true →
        result (withRx l { r with state := .startCheck, sample := 0, votes := 0, shift := 0#8, parityError := false } s))) ∧
    (r.state = .recover →
      (mark → r.run + 1 ≠ 16 → result (withRx l { r with run := r.run + 1 } s)) ∧
      (mark → r.run + 1 = 16 → result (formatTaken l (withRx l { idle with run := 16 } s))) ∧
      (¬mark → result (withRx l { r with run := 0 } s))) ∧
    (inFrame → m % 16 ≠ 7 → m % 16 ≠ 8 → m % 16 ≠ 9 → result (withRx l { r with sample := m } s)) ∧
    (inFrame → m % 16 = 7 → result (withRx l { r with sample := m, votes := if mark then 1 else 0 } s)) ∧
    (inFrame → m % 16 = 8 → result (withRx l { r with sample := m, votes := votes } s)) ∧
    (m % 16 = 9 →
      let r1 : Receiver := { r with sample := m, votes := votes }
      (r.state = .startCheck →
        (2 ≤ votes → result (formatTaken l (withRx l { r1 with state := .idle, seenIdle := true } s))) ∧
        (votes < 2 → result (withRx l { r1 with state := .data } s))) ∧
      (r.state = .data →
        let shift := if 2 ≤ votes then r.shift ||| (1#8 <<< (m / 16 - 1)) else r.shift
        (m / 16 < last → result (withRx l { r1 with shift := shift } s)) ∧
        (last ≤ m / 16 → fm.parity ≠ .none → result (withRx l { r1 with shift := shift, state := .parity } s)) ∧
        (last ≤ m / 16 → fm.parity = .none → result (withRx l { r1 with shift := shift, state := .stop } s))) ∧
      (r.state = .parity → fm.parity ≠ .none →
        let ones := ((List.range 8).filter (fun b => r.shift.getLsbD b)).length + if 2 ≤ votes then 1 else 0
        let wanted := if fm.parity = .odd then 1 else 0
        result (withRx l { r1 with state := .stop, parityError := decide (ones % 2 ≠ wanted) } s)) ∧
      (r.state = .stop →
        let fe := decide (votes < 2)
        let frame : Instr :=
          match l with
          | .kbd => .keyboardFrame r.shift r.parityError fe
          | .scn => .scannerFrame r.shift r.parityError fe
        (l = .scn → (fm.eight = true ∨ r.shift.toNat < 0x80) ∧ (r.parityError = true → fm.parity ≠ .none)) →
        ∃ t t', exec (.lineSample l level) s = .next t ∧ exec frame s = .next t' ∧
          rxOf l t =
            (if fe then { r1 with state := .recover, run := 0 } else { r1 with state := .idle, seenIdle := true }) ∧
          besidesStatus t = besidesStatus (withRx l (rxOf l t) t')))) ∧
  (∀ s : State, claimsJoined s → s.coldAsserted = false →
    s.keyboard.state = .stop → s.keyboard.sample % 16 = 8 → s.keyboard.votes = 2 → s.keyboard.parityError = false →
    isAssigned s.keyboard.shift = true → s.holding = none → s.queue.length < 32 →
    ∃ t, exec (.lineSample .kbd .mark) s = .next t ∧ t.keyboard.state = .idle ∧ t.keyboard.seenIdle = true ∧
      besidesStatus t =
        besidesStatus
          { s with keyboard := t.keyboard, queue := s.queue ++ [.key s.keyboard.shift], claimOrder := [] }) ∧
  ∀ (s : State) (b : Nat) (x y z : Level), claimsJoined s → s.coldAsserted = false → s.keyboard.state = .data →
    1 ≤ b → b < 8 → s.keyboard.sample = 16 * b + 6 →
    ∃ t1 t2 t3, exec (.lineSample .kbd x) s = .next t1 ∧ exec (.lineSample .kbd y) t1 = .next t2 ∧
      exec (.lineSample .kbd z) t2 = .next t3 ∧ besidesStatus t3 = besidesStatus { s with keyboard := t3.keyboard } ∧
      t3.keyboard.state = .data ∧ t3.keyboard.sample = 16 * b + 9 ∧
      t3.keyboard.shift =
        (if (x = .mark ∧ y = .mark) ∨ (x = .mark ∧ z = .mark) ∨ (y = .mark ∧ z = .mark) then
           s.keyboard.shift ||| (1#8 <<< (b - 1))
         else s.keyboard.shift)

/-! ### The verdict -/

/-- The verdict on the head: applied under OPEN (in LIMIT only an arrow key or RST, any other refused with ERROR 07);
kept under SYSTEM with typeahead on; discarded under SYSTEM with typeahead off and under ERROR, with a DISCARD count and a
tone, its slot FREE; RST in ERROR opens the lock. When the head leaves a full queue, the first waiting claim joins in the
same event: the held code's token from the holding stage, or a READY slot, then QUEUED (R108 to R112, R115, R117, R132,
R149). A token taken has the table at the verdict as its working table: R127 gives it so for work that writes no cell; for
the tokens that take hold, EIN, CLR and the send keys it is the model's reading until their working lookup (log 25). -/
def Obligations.HeadVerdictTable : Prop :=
  ∀ (s : State) (u : SetupBlock) (h : Token) (rest : List Token), verdictDue s → s.setup.active = some u →
    s.queue = h :: rest → claimsJoined s → s.queue.length ≤ 32 →
    (∀ c, s.claimOrder.head? = some c → c.who = .held → s.holding ≠ none) → rangeFree s →
    let arrowOrReset := ∃ code : Byte, h = .key code ∧ ((0x80 ≤ code.toNat ∧ code.toNat ≤ 0x83) ∨ code = 0x8F#8)
    let result : State → Prop := fun X =>
      ∃ t, exec .headVerdict s = .next t ∧ besidesStatus t = besidesStatus (firstJoined X)
    let freed : State → State := fun X => match h with | .key _ => X | .scan i => slotFreed i X
    let noted : Composer :=
      match h with
      | .key code =>
        if isSendCode code then
          { s.composer with keyCode := code, cursorAtSend := s.composer.cursor, abortMark := false }
        else s.composer
      | .scan _ => s.composer
    (s.lock = .opened → (s.map.state = .current ∨ arrowOrReset) →
      (∀ i, h = .scan i →
        result
          { s with
            queue := rest, slots := setSlot s.slots i { getSlot s.slots i with state := .taken },
            composer.engine := .token, composer.work := .token h, composer.begun := false,
            composer.workingTable := some s.map.table }) ∧
      (∀ code, h = .key code →
        result
          { s with
            queue := rest,
            composer :=
              { noted with
                engine := if isSendCode code then .send else .token, work := .token h, begun := false,
                workingTable := some s.map.table } })) ∧
    (s.lock = .opened → s.map.state = .limit → ¬arrowOrReset →
      result
        (freed
          { s with
            queue := rest, lock := .error .formatLimit, tone := true,
            timer.toneCompare := some (s.timer.counter + 1000#16),
            composer := idleWith s.composer.cursor s.composer.insertMode noted })) ∧
    (∀ why, s.lock = .system why → typeaheadOn u = true →
      ∃ t, exec .headVerdict s = .next t ∧ besidesStatus t = besidesStatus s) ∧
    (((∃ why, s.lock = .system why) ∧ typeaheadOn u = false) ∨ ((∃ code, s.lock = .error code) ∧ h ≠ .key 0x8F#8) →
      result
        (freed
          { s with
            queue := rest, tone := true, timer.toneCompare := some (s.timer.counter + 1000#16),
            report.counters.discard := countUp s.report.counters.discard })) ∧
    (∀ code, s.lock = .error code → h = .key 0x8F#8 → result { s with queue := rest, lock := .opened })

/-! ### Tokens -/

/-- The arrow keys move the cursor by R30 in every map state, write no cell, take no hold and end (R30, R135). -/
def Obligations.ArrowKeysMoveCursor : Prop :=
  ∀ (s : State) (u : SetupBlock), claimsJoined s → rangeFree s → s.setup.active = some u →
    let n := setupRows u * setupCols u
    let x := s.composer.cursor
    let moved : Nat → State := fun y => { s with composer := idleWith y s.composer.insertMode s.composer }
    (tokenTaken (.key 0x80#8) s →
      ∃ t, exec .cur s = .next t ∧ besidesStatus t = besidesStatus (moved ((x + 1) % n))) ∧
    (tokenTaken (.key 0x81#8) s →
      ∃ t, exec .cul s = .next t ∧ besidesStatus t = besidesStatus (moved ((x + n - 1) % n))) ∧
    (tokenTaken (.key 0x82#8) s →
      ∃ t, exec .cuu s = .next t ∧ besidesStatus t = besidesStatus (moved ((x + n - setupCols u) % n))) ∧
    (tokenTaken (.key 0x83#8) s →
      ∃ t, exec .cud s = .next t ∧ besidesStatus t = besidesStatus (moved ((x + setupCols u) % n)))

/-- A field-moving key with no exit processing due moves the cursor to its destination over the table at the taking,
and nothing else changes (R31 to R34, R136). -/
def Obligations.FieldMovesWithoutExit : Prop :=
  ∀ (s : State) (code : Byte) (c : Instr), claimsJoined s → rangeFree s → tokenTaken (.key code) s →
    ((c = .hom ∧ code = 0x84#8) ∨ (c = .tab ∧ code = 0x85#8) ∨ (c = .btb ∧ code = 0x86#8) ∨
      (c = .nln ∧ code = 0x87#8)) →
    let fs := s.workingFields
    let dest :=
      if code = 0x84#8 then homDest fs
      else if code = 0x85#8 then tabDest s.formN fs s.composer.cursor
      else if code = 0x86#8 then btbDest s.formN fs s.composer.cursor
      else nlnDest s.formN s.formR s.formC fs s.composer.cursor
    exitDue s.formN fs s.composer.cursor dest = false →
    ∃ t, exec c s = .next t ∧
      besidesStatus t = besidesStatus { s with composer := idleWith (dest % s.formN) s.composer.insertMode s.composer }

/-- The destinations of the field-moving keys. TAB: the eligible data start nearest ahead of the cursor, at distance 1 to
N. BTB: the data start of an eligible field that the cursor is in beyond its first cell, else the eligible data start
nearest behind, at distance 1 to N. NLN: the eligible data start nearest at or after the start of the next row, else that
start itself, as on the unformatted screen. HOM: the first eligible field's in map order. TAB, BTB and HOM give 0 where no
field is eligible (R30 to R34). -/
def Obligations.FieldMoveDestinations : Prop :=
  ∀ (n x : Nat) (fs : List Field), 0 < n → x < n → (∀ f ∈ fs, f.start < n) →
    let start : Nat → Prop := fun p => ∃ f ∈ fs, isProtected f.word = false ∧ 1 ≤ f.len ∧ f.start = p
    ((∀ p, ¬start p) → tabDest n fs x = 0) ∧
    (∀ d, 1 ≤ d → d ≤ n → start ((x + d) % n) → (∀ e, 1 ≤ e → e < d → ¬start ((x + e) % n)) →
      tabDest n fs x = (x + d) % n) ∧
    (let inside := ∃ f, fieldAt fs x = some f ∧ isProtected f.word = false ∧ 1 ≤ f.len ∧
       0 < offsetOf n f x ∧ offsetOf n f x < f.len
     (∀ f, fieldAt fs x = some f → isProtected f.word = false → 0 < offsetOf n f x → offsetOf n f x < f.len →
       btbDest n fs x = f.start) ∧
     (¬inside → (∀ p, ¬start p) → btbDest n fs x = 0) ∧
     (∀ d, ¬inside → 1 ≤ d → d ≤ n → start ((x + n - d) % n) →
       (∀ e, 1 ≤ e → e < d → ¬start ((x + n - e) % n)) → btbDest n fs x = (x + n - d) % n)) ∧
    (∀ rows cols, n = rows * cols →
      let row := (x / cols + 1) % rows * cols
      ((∃ f ∈ fs, f.mark = none) ∨ (∀ p, ¬start p) → nlnDest n rows cols fs x = row) ∧
      (∀ d, (∀ f ∈ fs, f.mark ≠ none) → d < n → start ((row + d) % n) → (∀ e < d, ¬start ((row + e) % n)) →
        nlnDest n rows cols fs x = (row + d) % n)) ∧
    ((∀ p, ¬start p) → homDest fs = 0) ∧
    (∀ before f after, fs = before ++ f :: after → isProtected f.word = false → 1 ≤ f.len →
      (∀ g ∈ before, isProtected g.word = true ∨ g.len = 0) → homDest fs = f.start)

/-- BSP moves back one cell inside an unprotected field and else changes nothing; INS turns insert mode over; RST
turns it off; each ends its token (R137). -/
def Obligations.BackspaceInsertReset : Prop :=
  ∀ s : State, claimsJoined s → rangeFree s →
    (∀ f, tokenTaken (.key 0x88#8) s → fieldAt s.workingFields s.composer.cursor = some f →
      ∃ t, exec .bsp s = .next t ∧
        besidesStatus t =
          besidesStatus
            { s with
              composer :=
                idleWith
                  (if isDataOf s.formN f s.composer.cursor = true ∧ 0 < offsetOf s.formN f s.composer.cursor ∧
                      isProtected f.word = false
                   then (s.composer.cursor + s.formN - 1) % s.formN else s.composer.cursor)
                  s.composer.insertMode s.composer }) ∧
    (tokenTaken (.key 0x8A#8) s →
      ∃ t, exec .ins s = .next t ∧
        besidesStatus t =
          besidesStatus { s with composer := idleWith s.composer.cursor (!s.composer.insertMode) s.composer }) ∧
    (tokenTaken (.key 0x8F#8) s →
      ∃ t, exec .rst s = .next t ∧
        besidesStatus t = besidesStatus { s with composer := idleWith s.composer.cursor false s.composer })

/-- A token that works on a field, and a field-moving or send key with exit processing due, first posts the held
range of the cursor's field: SPAN on a table of two or more entries, else WHOLE. With no field the token is refused
with ERROR 07. Whether a field-moving key's exit processing may run is judged over the working table, which stands as the
table was at the taking: the model's reading of R136's first lookup (log 25); that the token's row begins its work is the
model's too (log 6) (R29, R127, R128, R133, R136, R138, R139, R142 to R144, R150). -/
def Obligations.TokensTakeHold : Prop :=
  ∀ (s : State) (u : SetupBlock) (c : Instr) (tok : Token), claimsJoined s → s.setup.active = some u →
    tokenTaken tok s →
    ((c = .dataCharacter ∧ ∃ ch : Byte, tok = .key ch ∧ 0x20 ≤ ch.toNat ∧ ch.toNat ≤ 0x7E) ∨
     (c = .del ∧ tok = .key 0x89#8) ∨ (c = .eef ∧ tok = .key 0x8B#8) ∨ (c = .fex ∧ tok = .key 0x8D#8) ∨
     (c = .fmn ∧ tok = .key 0x8E#8) ∨ (c = .scanToken ∧ ∃ i, tok = .scan i) ∨
     (∃ code, tok = .key code ∧
       ((c = .hom ∧ code = 0x84#8) ∨ (c = .tab ∧ code = 0x85#8) ∨ (c = .btb ∧ code = 0x86#8) ∨ (c = .nln ∧ code = 0x87#8)) ∧
       exitDue s.formN s.workingFields s.composer.cursor (moverDest s code s.workingFields s.composer.cursor) = true) ∨
     (((c = .ent ∧ tok = .key 0xC0#8) ∨ (c = .f1ToF12 ∧ ∃ ch : Byte, tok = .key ch ∧ 0xC1 ≤ ch.toNat ∧ ch.toNat ≤ 0xCC)) ∧
       ∃ f, s.lookup s.composer.cursor = some f ∧ sendExitDue s.formN f s.composer.cursor = true)) →
    (∀ f, s.lookup s.composer.cursor = some f →
      let r : HeldRange :=
        match f.mark with
        | none => .whole
        | some m => if 2 ≤ s.map.table.length then .span m f.len else .whole
      ∃ t, exec c s = .next t ∧
        besidesStatus t =
          besidesStatus
            { s with
              posting := some r, composer.posted := r, composer.begun := true,
              composer.todo := [.post r, .call (.holdFirst f.mark f.len (r == .whole))] }) ∧
    (s.lookup s.composer.cursor = none → rangeFree s → s.lock = .opened →
      ∃ t, exec c s = .next t ∧
        besidesStatus t =
          besidesStatus
            { s with
              lock := .error .formatLimit, tone := true,
              timer.toneCompare := some (s.timer.counter + 1000#16), slots := t.slots,
              composer := idleWith s.composer.cursor s.composer.insertMode s.composer } ∧
        (∀ i, (getSlot t.slots i).state = if tok = .scan i then .free else (getSlot s.slots i).state))

/-- EIN and CLR post WHOLE for the erase pass (R140, R154). ENT and F1 to F12 with no exit processing due begin the
validation walk at the first field in map order: its held range is posted (R150, R151). -/
def Obligations.EraseAndSendBegin : Prop :=
  ∀ (s : State) (u : SetupBlock) (c : Instr) (tok : Token), claimsJoined s → s.setup.active = some u →
    tokenTaken tok s →
    (((c = .ein ∧ tok = .key 0x8C#8) ∨ (c = .clr ∧ tok = .key 0xCF#8)) →
      ∃ t, exec c s = .next t ∧
        besidesStatus t =
          besidesStatus
            { s with
              posting := some .whole, composer.posted := .whole, composer.begun := true,
              composer.todo := [.post .whole, .call .eraseTaken] }) ∧
    (∀ (f g : Field) (gs : List Field),
      ((c = .ent ∧ tok = .key 0xC0#8) ∨
        (c = .f1ToF12 ∧ ∃ ch : Byte, tok = .key ch ∧ 0xC1 ≤ ch.toNat ∧ ch.toNat ≤ 0xCC)) →
      s.map.state = .current → s.lookup s.composer.cursor = some f →
      sendExitDue s.formN f s.composer.cursor = false → s.liveFields = g :: gs →
      ∃ t, exec c s = .next t ∧
        besidesStatus t =
          besidesStatus
            { s with
              posting := some (heldRangeOf s.map.table g), composer.posted := heldRangeOf s.map.table g,
              composer.begun := true, composer.lastHandled := none,
              composer.todo := [.post (heldRangeOf s.map.table g), .call (.stepFirst .validate g.mark g.len)] })

/-- A key token once its hold is made on field f, whose offset at the cursor is k. On the mark or in a protected field a
data character, DEL, EEF, FEX and FMN are refused with ERROR 01; a character the entry type does not allow, and FMN in a
field not NUMERIC, with ERROR 03. In insert mode a data character reads the last cell first, in replace mode it is
written. DEL reads each cell after k and writes it one lower, then nulls the last; EEF treats the cells from k; FEX and FMN
read the field for exit processing. A field-moving or send key runs exit processing when its conditions hold still, else
the cursor moves, or the walk begins (R2, R35, R36, R127, R129, R133, R134, R136, R138, R139, R141 to R143, R150). -/
def Obligations.HeldKeysBegin : Prop :=
  ∀ (s : State) (u : SetupBlock) (r : HeldRange) (k : Cont) (f : Field) (code : Byte), postingDue u r k s →
    holdMadeBy k f s → s.composer.work = .token (.key code) →
    let n := formSize u
    let x := s.composer.cursor
    let off := offsetOf n f x
    let enterable := isDataOf n f x = true ∧ isProtected f.word = false
    let held := holdOn f (rangeTaken r s)
    let result : State → Prop := fun X => ∃ t, exec .heldRangePosting s = .next t ∧ besidesStatus t = besidesStatus X
    let exits : Option Nat → Bool → ExitNext → State := fun nullFrom minus next =>
      claiming (cellAddr u (posAt n f 0)) .read (cellReads n f ++ [.call (.exitRead nullFrom minus next)])
        { held with composer.buffer := [] }
    let ch := foldUpper (isUppercase f.word) code
    ((isDataCode code = true ∨ code ∈ [0x89#8, 0x8B#8, 0x8D#8, 0x8E#8]) → ¬enterable →
      result (refusedAt x .isProtected s)) ∧
    (isDataCode code = true → enterable →
      (allows (entryType f.word) ch = false → result (refusedAt x .wrongCharacter s)) ∧
      (allows (entryType f.word) ch = true → s.composer.insertMode = false →
        result
          (claiming (cellAddr u x) (.write .word (ch.setWidth 16))
            [.write x (ch.setWidth 16), .call .setModified, .call .charWritten] held)) ∧
      (allows (entryType f.word) ch = true → s.composer.insertMode = true →
        let last := posAt n f (f.len - 1)
        result
          (claiming (cellAddr u last) .read [.read last, .call (.insertTested ch)]
            { held with composer.buffer := [] }))) ∧
    (code = 0x89#8 → enterable →
      let moves :=
        (List.range (f.len - 1 - off)).flatMap
          (fun i => [Op.read (posAt n f (off + 1 + i)), Op.writeBack (posAt n f (off + i))])
      let rest := [Op.write (posAt n f (f.len - 1)) 0x0000#16, .call .setModified, .call .finish]
      (off + 1 < f.len → result (claiming (cellAddr u (posAt n f (off + 1))) .read (moves ++ rest) held)) ∧
      (off + 1 = f.len → result (claiming (cellAddr u (posAt n f off)) (.write .word 0x0000#16) rest held))) ∧
    (code = 0x8B#8 → enterable →
      result
        (claiming (cellAddr u (posAt n f off)) .read
          ((List.range (f.len - off)).map (fun i => Op.eraseCell (posAt n f (off + i))) ++
            [.call .setModified, .call .finish]) held)) ∧
    (code = 0x8D#8 → enterable → result (exits (some off) false (.field x))) ∧
    (code = 0x8E#8 → enterable →
      (entryType f.word ≠ .numeric → result (refusedAt x .wrongCharacter s)) ∧
      (entryType f.word = .numeric → result (exits (some off) true (.field x)))) ∧
    (∀ dest,
      (code = 0x84#8 ∧ dest = homDest s.liveFields) ∨ (code = 0x85#8 ∧ dest = tabDest n s.liveFields x) ∨
        (code = 0x86#8 ∧ dest = btbDest n s.liveFields x) ∨
        (code = 0x87#8 ∧ dest = nlnDest n (setupRows u) (setupCols u) s.liveFields x) →
      let due := f.mark ≠ none ∧ enterable ∧ isModified f.word = true ∧ isDataOf n f dest = false
      (due → result (exits none false (.move dest))) ∧ (¬due → result (workEnded (dest % n) s))) ∧
    (isEnterCode code = true →
      let due := f.mark ≠ none ∧ enterable ∧ isModified f.word = true
      (due → result (exits none false .send)) ∧ (¬due → result (walkBegun held)))

/-- A SCAN token once its hold is made. It is rejected on the mark or in a protected field, when it is longer than the
field, when a folded character is not allowed, and when the check test fails in a CHECKED field; on the unformatted screen
when it does not fit from the cursor: SCAN DROP, a count and a tone, the lock and the cursor as they were and the slot FREE.
Else a field's cells are read, and those that differ from the scan placed from the data start and adjusted are written; the
cursor goes to the place R44 gives. On the unformatted screen the characters are written at the cursor. After the last
cell MODIFIED is set, by a mark write if it is clear, and the token ends there: the cursor moved, the range released and the
slot FREE (R37, R39, R44, R103, R124, R131, R144, R145). -/
def Obligations.HeldScanIsJudgedAndWritten : Prop :=
  (∀ (s : State) (u : SetupBlock) (r : HeldRange) (k : Cont) (f : Field) (i : Fin 4), postingDue u r k s →
    holdMadeBy k f s → s.composer.work = .token (.scan i) →
    let n := formSize u
    let x := s.composer.cursor
    let chars := (getSlot s.slots i).chars
    let folded := chars.map (foldUpper (isUppercase f.word))
    let held := holdOn f (rangeTaken r s)
    let rejected : Prop :=
      (f.mark = none ∧ n < x + chars.length) ∨
      (f.mark ≠ none ∧
        (isDataOf n f x = false ∨ isProtected f.word = true ∨ f.len < chars.length ∨
          (∃ c ∈ folded, allows (entryType f.word) c = false) ∨
          (entryType f.word = .checked ∧ checkPasses (checkScheme f.word) folded = false)))
    (rejected →
      ∃ t, exec .heldRangePosting s = .next t ∧ t.report.pending = s.report.pending ||| 0x04#8 ∧
        t.report.seen = s.report.seen &&& ~~~0x04#8 ∧
        besidesCauses t =
          besidesCauses
            (slotFreed i
              (workEnded x
                { s with
                  report.counters.scanDrop := countUp s.report.counters.scanDrop, tone := true,
                  timer.toneCompare := some (s.timer.counter + 1000#16) }))) ∧
    (¬rejected → f.mark ≠ none →
      ∃ t, exec .heldRangePosting s = .next t ∧
        besidesStatus t =
          besidesStatus
            (claiming (cellAddr u (posAt n f 0)) .read (cellReads n f ++ [.call .scanRead])
              { held with composer.buffer := [] })) ∧
    (∀ c cs, ¬rejected → f.mark = none → chars = c :: cs →
      ∃ t, exec .heldRangePosting s = .next t ∧
        besidesStatus t =
          besidesStatus
            (claiming (cellAddr u x) (.write .word (c.setWidth 16))
              (chars.zipIdx.map (fun d => Op.write (x + d.2) (d.1.setWidth 16)) ++
                [.call .setModified, .call (.moveTo (min (x + chars.length) (n - 1)))]) held))) ∧
  (∀ (s : State) (u : SetupBlock) (p : Nat) (w : Word) (f : Field) (i : Fin 4) (d : Nat),
    s.composer.work = .token (.scan i) → s.composer.field = some f →
    let result : State → Prop := fun X =>
      ∃ t, exec .composerTransferCompletion s = .next t ∧ besidesStatus t = besidesStatus X
    let ended : State → State := fun X => slotFreed i (workEnded (d % formSize u) X)
    (lastWriteDue u p w [.call .setModified, .call (.moveTo d)] s → isMark w = false →
      result (modifiedThen u f [.call (.moveTo d)] ended (wordWritten u p w s))) ∧
    (lastWriteDue u p w [.call (.moveTo d)] s → result (ended (wordWritten u p w s)))) ∧
  ∀ (s : State) (u : SetupBlock) (a : WordAddr) (f : Field) (i : Fin 4), lastReadDue u a .scanRead s →
    s.composer.work = .token (.scan i) → s.composer.field = some f → (wordsWith a s).length = f.len →
    (getSlot s.slots i).chars.length ≤ f.len →
    let n := formSize u
    let chars := (getSlot s.slots i).chars.map (foldUpper (isUppercase f.word))
    let placed := chars.map (fun c => (c.setWidth 16 : Word)) ++ List.replicate (f.len - chars.length) 0x0000#16
    let old := wordsWith a s
    let new := adjustCells (adjustOf f.word) placed
    let dest :=
      if autoAdvance f.word then tabDest n s.workingFields (posAt n f (f.len - 1))
      else posAt n f (min chars.length (f.len - 1))
    let rest := [Op.call .setModified, .call (.moveTo dest)]
    let result : State → Prop := fun X =>
      ∃ t, exec .composerTransferCompletion s = .next t ∧ besidesStatus t = besidesStatus X
    (∀ j js, changedOffsets old new = j :: js →
      result
        (claiming (cellAddr u (posAt n f j)) (.write .word (new.getD j 0#16)) (cellWrites n f old new ++ rest)
          (readTaken a s))) ∧
    (changedOffsets old new = [] →
      result
        (modifiedThen u f [.call (.moveTo dest)] (fun X => slotFreed i (workEnded (dest % n) X)) (readTaken a s)))

/-- Exit processing on the held field, its cells read. The contents are computed from the words read: nulled from the
cursor's offset for FEX and FMN, then adjusted, or in the minus form for FMN. In a CHECKED field whose contents fail the
check test nothing is written, ERROR 04 is raised and the cursor goes to the data start. Else the cells that differ are
written in ascending order; when the last of them has been written, or none differs, the key goes on: the cursor moves to
its destination over the working table, FEX and FMN setting MODIFIED first, after whose mark write, if it takes one, the
token ends; and a send begins its walk (R38 to R41, R124, R131, R134, R136, R141 to R143, R150). -/
def Obligations.ExitProcessingRuns : Prop :=
  (∀ (s : State) (u : SetupBlock) (a : WordAddr) (f : Field) (code : Byte) (nullFrom : Option Nat) (minus : Bool)
      (next : ExitNext),
    lastReadDue u a (.exitRead nullFrom minus next) s → s.composer.work = .token (.key code) →
    s.composer.field = some f → (wordsWith a s).length = f.len →
    (minus = true → ∃ k < f.len, nullFrom = some k) →
    let n := formSize u
    let old := wordsWith a s
    let taken :=
      match nullFrom with
      | none => old
      | some k => old.take k ++ List.replicate (old.length - k) 0x0000#16
    let new := if minus then minusCells (adjustOf f.word) taken else adjustCells (adjustOf f.word) taken
    let fails := entryType f.word = .checked ∧ checkPasses (checkScheme f.word) (new.map charOf) = false
    let result : State → Prop := fun X =>
      ∃ t, exec .composerTransferCompletion s = .next t ∧ besidesStatus t = besidesStatus X
    (fails → result (refusedAt (f.start % n) .checkDigit { s with port := none })) ∧
    (∀ j js, ¬fails → changedOffsets old new = j :: js →
      result
        (claiming (cellAddr u (posAt n f j)) (.write .word (new.getD j 0#16))
          (cellWrites n f old new ++ [.call (.exitDone next)]) (readTaken a s))) ∧
    (¬fails → changedOffsets old new = [] → result (exitFollowed u f next s.workingFields (readTaken a s)))) ∧
  (∀ (s : State) (u : SetupBlock) (p : Nat) (w : Word) (code : Byte) (d : Nat), lastWriteDue u p w [.call (.moveTo d)] s →
    s.composer.work = .token (.key code) →
    ∃ t, exec .composerTransferCompletion s = .next t ∧
      besidesStatus t = besidesStatus (workEnded (d % formSize u) (wordWritten u p w s))) ∧
  ∀ (s : State) (u : SetupBlock) (f : Field) (p : Nat) (w : Word) (code : Byte) (next : ExitNext),
    lastWriteDue u p w [.call (.exitDone next)] s → isMark w = false → s.composer.work = .token (.key code) →
    s.composer.field = some f →
    ∃ t, exec .composerTransferCompletion s = .next t ∧
      besidesStatus t = besidesStatus (exitFollowed u f next s.workingFields (wordWritten u p w s))

/-- The validation walk, one field's hold made at a time: a field unprotected and not empty fails MUST-ENTER when it is
not modified; when modified, MUST-FILL and the check test are judged on its cells read once; the first failure refuses the
send at the field's data start; a field that passes, or is not judged, is followed by the next, and after the last the send
lock is taken, insert mode is off and the list opens. A selection that has changed since its posting is made anew under
WHOLE; a map that is not CURRENT ends the walk with ERROR 07 (R41, R116, R151 to R153, R160, R161). -/
def Obligations.ValidationJudgesFields : Prop :=
  (∀ (s : State) (u : SetupBlock) (r : HeldRange) (k : Cont), postingDue u r k s →
    let sending := ∃ code, s.composer.work = .token (.key code)
    let result : State → Prop := fun X => ∃ t, exec .heldRangePosting s = .next t ∧ besidesStatus t = besidesStatus X
    (∀ f, sending → stepMadeBy .validate k f s →
      let judged := f.mark ≠ none ∧ isProtected f.word = false ∧ 1 ≤ f.len
      let enterFails := mustEnter f.word = true ∧ isModified f.word = false
      let reads := isModified f.word = true ∧ (mustFill f.word = true ∨ entryType f.word = .checked)
      (judged → enterFails → result (refusedAt (f.start % formSize u) .mustEnter s)) ∧
      (judged → ¬enterFails → reads →
        result
          (claiming (cellAddr u (posAt (formSize u) f 0)) .read (cellReads (formSize u) f ++ [.call .validationRead])
            { holdOn f (rangeTaken r s) with composer.buffer := [] })) ∧
      (¬judged ∨ (¬enterFails ∧ ¬reads) → result (walkOn u .validate f (holdOn f (rangeTaken r s))))) ∧
    (∀ (w : Walk), (w = .validate → sending) →
      (∀ m l g, k = .stepFirst w m l → selects g s → (∀ f, g = some f → ¬(f.mark = m ∧ f.len = l)) →
        result (awaiting .whole (.stepWhole w) (rangeTaken r s))) ∧
      (∀ f, k = .stepWhole w → selects (some f) s →
        result
          (awaiting (heldRangeOf s.map.table f) (.stepMade w) { rangeTaken r s with composer.field := some f })) ∧
      (k = .stepWhole w → selects none s → result (walkOver u w (rangeTaken r s)))) ∧
    (sending → ((∃ m l, k = .stepFirst .validate m l) ∨ k = .stepWhole .validate) → s.map.state ≠ .current →
      result (refusedAt s.composer.cursor .formatLimit s)) ∧
    (((∃ m l, k = .stepFirst .gather m l) ∨ k = .stepWhole .gather) → s.map.state ≠ .current →
      result (listEnding u .truncated .closing (rangeTaken r s)))) ∧
  ∀ (s : State) (u : SetupBlock) (a : WordAddr) (f : Field) (code : Byte), lastReadDue u a .validationRead s →
    s.composer.work = .token (.key code) → s.composer.field = some f →
    let result : State → Prop := fun X =>
      ∃ t, exec .composerTransferCompletion s = .next t ∧ besidesStatus t = besidesStatus X
    let fillFails := mustFill f.word = true ∧ ∃ w ∈ wordsWith a s, charOf w = 0x00#8 ∨ charOf w = 0x20#8
    let checkFails := entryType f.word = .checked ∧ checkPasses (checkScheme f.word) ((wordsWith a s).map charOf) = false
    (fillFails → result (refusedAt (f.start % formSize u) .mustFill { s with port := none })) ∧
    (¬fillFails → checkFails → result (refusedAt (f.start % formSize u) .checkDigit { s with port := none })) ∧
    (¬fillFails → ¬checkFails → result (walkOn u .validate f (readTaken a s)))

/-- The gather. When the list is opened its fields are walked, but for CLR, whose list is closed at once. A modified field is
taken, under GUNP an unprotected one that is not empty; its cells are read, and its entry is written when it fits the
capacity, else the list closes TRUNCATED; after the entry's last word the counts grow and the walk goes on, to the close.
The gathered characters are those up to the last that is not null, inner nulls sent as blanks, two to a word
(R45 to R47, R151, R154, R156 to R160). -/
def Obligations.GatherWritesEntries : Prop :=
  (∀ (s : State) (u : SetupBlock) (r : HeldRange) (k : Cont) (f : Field), postingDue u r k s →
    stepMadeBy .gather k f s →
    let result : State → Prop := fun X => ∃ t, exec .heldRangePosting s = .next t ∧ besidesStatus t = besidesStatus X
    let takes : Prop :=
      ((∃ op, s.composer.work = .directive .gunp op) ∧ isProtected f.word = false ∧ 1 ≤ f.len) ∨
      ((∀ op, s.composer.work ≠ .directive .gunp op) ∧ isModified f.word = true)
    let held := { holdOn f (rangeTaken r s) with composer.buffer := [] }
    (takes → 1 ≤ f.len →
      result
        (claiming (cellAddr u (posAt (formSize u) f 0)) .read (cellReads (formSize u) f ++ [.call .gatherRead]) held)) ∧
    (takes → f.len = 0 → s.composer.used + 2 ≤ (setupWord u 14).toNat →
      result
        (claiming (returnAddr u s.composer.used) (.write .word (BitVec.ofNat 16 f.start))
          [.list s.composer.used (BitVec.ofNat 16 f.start), .list (s.composer.used + 1) 0x0000#16,
           .call (.entryWritten 2)] held)) ∧
    (takes → f.len = 0 → (setupWord u 14).toNat < s.composer.used + 2 → result (listEnding u .truncated .closing held)) ∧
    (¬takes → result (walkOn u .gather f (holdOn f (rangeTaken r s))))) ∧
  (∀ (s : State) (u : SetupBlock) (a : WordAddr) (f : Field), lastReadDue u a .gatherRead s → s.composer.field = some f →
    let result : State → Prop := fun X =>
      ∃ t, exec .composerTransferCompletion s = .next t ∧ besidesStatus t = besidesStatus X
    let cs := gatheredChars (wordsWith a s)
    let size := 2 + (cs.length + 1) / 2
    (s.composer.used + size ≤ (setupWord u 14).toNat →
      result
        (claiming (returnAddr u s.composer.used) (.write .word (BitVec.ofNat 16 f.start))
          ((BitVec.ofNat 16 f.start :: BitVec.ofNat 16 cs.length :: packChars cs).zipIdx.map
              (fun d => Op.list (s.composer.used + d.2) d.1) ++
            [.call (.entryWritten size)]) (readTaken a s))) ∧
    ((setupWord u 14).toNat < s.composer.used + size →
      result (listEnding u .truncated .closing (readTaken a s)))) ∧
  (∀ (s : State) (u : SetupBlock) (a : WordAddr) (w : Word) (i size : Nat) (f : Field), claimsJoined s →
    s.setup.active = some u → formPos u a = none → s.inHand = none → noAbort s → s.composer.field = some f →
    s.port = some { owner := .composer, addr := a, op := .write .word w, orphan := false } →
    s.composer.todo = [.list i w, .call (.entryWritten size)] →
    ∃ t, exec .composerTransferCompletion s = .next t ∧
      besidesStatus t =
        besidesStatus
          (walkOn u .gather f
            { s with
              mem := writeLanes s.mem a .word w, port := none, composer.used := s.composer.used + size,
              composer.count := s.composer.count + 1 })) ∧
  (∀ (s : State) (u : SetupBlock) (a : WordAddr) (w : Word), claimsJoined s →
    s.setup.active = some u → formPos u a = none → s.inHand = none → s.composer.abortMark = false →
    s.port = some { owner := .composer, addr := a, op := .write .word w, orphan := false } →
    s.composer.todo = [.list 4 w, .call .listOpened] →
    let written : State := { s with mem := writeLanes s.mem a .word w, port := none }
    let result : State → Prop := fun X =>
      ∃ t, exec .composerTransferCompletion s = .next t ∧ besidesStatus t = besidesStatus X
    (s.composer.keyCode = 0xCF#8 → result (listEnding u .complete .closing written)) ∧
    (∀ g gs, s.composer.keyCode ≠ 0xCF#8 → s.map.state = .current → s.liveFields = g :: gs →
      result
        (awaiting (heldRangeOf s.map.table g) (.stepFirst .gather g.mark g.len)
          { written with composer.listPhase := .walking, composer.lastHandled := none })) ∧
    (s.composer.keyCode ≠ 0xCF#8 → s.map.state ≠ .current →
      result (listEnding u .truncated .closing { written with composer.lastHandled := none }))) ∧
  (∀ ws : List Word, ∃ m ≤ ws.length, (∀ w ∈ ws.drop m, charOf w = 0x00#8) ∧
    (∀ w, (ws.take m).getLast? = some w → charOf w ≠ 0x00#8) ∧
    gatheredChars ws = (ws.take m).map (fun w => if charOf w = 0x00#8 then 0x20#8 else charOf w)) ∧
  ∀ cs : List Byte, (packChars cs).length = (cs.length + 1) / 2 ∧
    ∀ j < (packChars cs).length,
      ((packChars cs).getD j 0#16).toNat = (cs.getD (2 * j) 0#8).toNat + 256 * (cs.getD (2 * j + 1) 0#8).toNat

/-- The erase pass and the clear-modified pass. Under WHOLE each data cell of each unprotected field in map order is to be
nulled, and each mark with MODIFIED set rewritten without it; in LIMIT a key is refused with ERROR 07 and CLIN with
REFUSED-STATE. At its end the flag of an unformatted screen is clear, the cursor goes to HOM's destination over the working
table, and EIN ends, CLIN completes, CLR takes the send lock. Under CELL the mark word the map then holds is rewritten
without MODIFIED if it is set; the next mark above follows; at the end UNLK unlocks and the directive completes
(R4, R34, R140, R146, R154, R175, R179). -/
def Obligations.EraseAndClearPassesRun : Prop :=
  (∀ (s : State) (u : SetupBlock), postingDue u .whole .eraseTaken s →
    let n := formSize u
    let result : State → Prop := fun X => ∃ t, exec .heldRangePosting s = .next t ∧ besidesStatus t = besidesStatus X
    let ops :=
      s.liveFields.flatMap (fun f =>
        (if isProtected f.word = false then (List.range f.len).map (fun j => Op.eraseCell (posAt n f j)) else []) ++
          (match f.mark with
           | some m => if isModified f.word then [Op.write m (f.word &&& 0xFEFF#16)] else []
           | none => [])) ++ [.call .eraseDone]
    let taken := { rangeTaken .whole s with composer.workingTable := some s.map.table }
    (∀ p rest, s.map.state = .current → ops = .eraseCell p :: rest →
      result (claiming (cellAddr u p) .read ops taken)) ∧
    (∀ p w rest, s.map.state = .current → ops = .write p w :: rest →
      result (claiming (cellAddr u p) (.write .word w) ops taken)) ∧
    (s.map.state = .current → ops = [.call .eraseDone] →
      (s.composer.work = .token (.key 0x8C#8) ∨ s.composer.work = .token (.key 0xCF#8) ∨
        ((∃ op, s.composer.work = .directive .clin op) ∧ s.report.intake.state = .running)) →
      result (eraseFollowed u (homDest s.liveFields % n) taken)) ∧
    (∀ code, s.map.state = .limit → s.composer.work = .token (.key code) →
      result (refusedAt s.composer.cursor .formatLimit s)) ∧
    (∀ op, s.map.state = .limit → s.composer.work = .directive .clin op → s.report.intake.state = .running →
      result (directiveEnded s.composer.cursor .refusedState s))) ∧
  (∀ (s : State) (u : SetupBlock),
    (s.composer.work = .token (.key 0x8C#8) ∨ s.composer.work = .token (.key 0xCF#8) ∨
      ((∃ op, s.composer.work = .directive .clin op) ∧ s.report.intake.state = .running)) →
    let home := homDest s.workingFields % formSize u
    (∀ p w, lastWriteDue u p w [.call .eraseDone] s →
      ∃ t, exec .composerTransferCompletion s = .next t ∧
        besidesStatus t = besidesStatus (eraseFollowed u home (wordWritten u p w s))) ∧
    (∀ a p, claimsJoined s → s.setup.active = some u → s.inHand = none → noAbort s →
      s.port = some { owner := .composer, addr := a, op := .read, orphan := false } →
      s.composer.todo = [.eraseCell p, .call .eraseDone] → readWord s.mem a = 0x0000#16 →
      ∃ t, exec .composerTransferCompletion s = .next t ∧
        besidesStatus t = besidesStatus (eraseFollowed u home { s with port := none }))) ∧
  (∀ (s : State) (u : SetupBlock) (p : Nat) (d : Directive) (op : Word), postingDue u (.cell p) (.cellTaken p) s →
    s.composer.work = .directive d op → s.report.intake.state = .running →
    let result : State → Prop := fun X => ∃ t, exec .heldRangePosting s = .next t ∧ besidesStatus t = besidesStatus X
    (∀ e, entryAt s.map.table p = some e → isModified e.word = true →
      result
        (claiming (cellAddr u p) (.write .word (e.word &&& 0xFEFF#16))
          [.write p (e.word &&& 0xFEFF#16), .call (.cellDone p)] (rangeTaken (.cell p) s))) ∧
    ((∀ e, entryAt s.map.table p = some e → isModified e.word = false) →
      result (cellOn d p (rangeTaken (.cell p) s)))) ∧
  ∀ (s : State) (u : SetupBlock) (p : Nat) (w : Word) (d : Directive) (op : Word),
    lastWriteDue u p w [.call (.cellDone p)] s → s.composer.work = .directive d op → s.report.intake.state = .running →
    ∃ t, exec .composerTransferCompletion s = .next t ∧
      besidesStatus t = besidesStatus (cellOn d p (wordWritten u p w s))

/-- A composer transfer completes and the next is claimed: a read keeps the word, and a move writes the whole word it has
read (R2); a cell to be erased is written when its word is not a null cell's, and else left (R139, R140; that it is written
before the next cell is read is the model's, log 11); a write changes its word of memory and no other byte; the words of a
return list follow one another (R130, R156, R158). -/
def Obligations.ComposerTransfersOneByOne : Prop :=
  ∀ (s : State) (u : SetupBlock) (a : WordAddr) (p q : Nat) (w v : Word) (rest : List Op), claimsJoined s →
    memoryCanonical s → s.setup.active = some u → noAbort s →
    (s.port = some { owner := .composer, addr := a, op := .read, orphan := false } →
      let result : State → Prop := fun X =>
        ∃ t, exec .composerTransferCompletion s = .next t ∧ besidesStatus t = besidesStatus X
      (s.composer.todo = .read p :: .read q :: rest →
        result (claiming (cellAddr u q) .read (.read q :: rest) (readTaken a s))) ∧
      (s.composer.todo = .read p :: .writeBack q :: rest →
        result (claiming (cellAddr u q) (.write .word (readWord s.mem a)) (.writeBack q :: rest) (readTaken a s))) ∧
      (s.composer.todo = .eraseCell p :: .eraseCell q :: rest → readWord s.mem a = 0x0000#16 →
        result (claiming (cellAddr u q) .read (.eraseCell q :: rest) { s with port := none })) ∧
      (s.composer.todo = .eraseCell p :: .write q v :: rest → readWord s.mem a = 0x0000#16 →
        result (claiming (cellAddr u q) (.write .word v) (.write q v :: rest) { s with port := none })) ∧
      (s.composer.todo = .eraseCell p :: rest → readWord s.mem a ≠ 0x0000#16 →
        result (claiming (cellAddr u p) (.write .word 0x0000#16) (.write p 0x0000#16 :: rest) { s with port := none }))) ∧
    (∀ head next, s.port = some { owner := .composer, addr := a, op := .write .word w, orphan := false } →
      s.composer.todo = head :: next :: rest → (∀ k, next ≠ .call k) →
      (head = .write p w ∨ head = .writeBack p ∨ head = .list p w) →
      ∃ t, exec .composerTransferCompletion s = .next t ∧ readWord t.mem a = w ∧
        (∀ b, b ≠ byteAddr a → b ≠ byteAddr a + 1 → readByte t.mem b = readByte s.mem b) ∧
        t.port = none ∧ t.setup = s.setup ∧ t.queue = s.queue ∧ t.slots = s.slots ∧ t.lock = s.lock ∧
        t.composer.cursor = s.composer.cursor ∧
        ∀ (b : WordAddr) (op : MemOp),
          ((next = .read q ∧ b = cellAddr u q ∧ op = .read) ∨
            (next = .eraseCell q ∧ b = cellAddr u q ∧ op = .read) ∨
            (next = .write q v ∧ b = cellAddr u q ∧ op = .write .word v) ∨
            (next = .writeBack q ∧ b = cellAddr u q ∧ op = .write .word (s.composer.buffer.headD 0#16)) ∨
            (next = .list q v ∧ b = returnAddr u q ∧ op = .write .word v)) →
          s.map.state ≠ .rebuilding →
          t.composer.todo = next :: rest ∧
            t.composerClaim = some { owner := .composer, addr := b, op := op, orphan := false })

/-- A data character on its way to its end. In insert mode the last cell has been read: not null, the character is refused
with ERROR 02; null, the cells from the cursor's are moved up one from the highest down, and the character is written. Its
write done, MODIFIED is set by a mark write if it is clear, or in the flag; then, at once or when that mark write completes, the
cursor goes to the next position, and the range is released and the token ends, or with AUTO-ADVANCE at the last cell the
field is read for exit processing. DEL and EEF end after MODIFIED likewise, with the cursor as it was. A write of the
processor that was held for the range is decided anew at the end, as if it arrived then (R35, R52, R54, R124, R131, R133,
R134, R138, R139). -/
def Obligations.CharacterIsWritten : Prop :=
  (∀ (s : State) (u : SetupBlock) (a : WordAddr) (ch code : Byte) (f : Field), lastReadDue u a (.insertTested ch) s →
    s.composer.work = .token (.key code) → s.composer.field = some f →
    isDataOf (formSize u) f s.composer.cursor = true →
    let n := formSize u
    let x := s.composer.cursor
    let off := offsetOf n f x
    let result : State → Prop := fun X =>
      ∃ t, exec .composerTransferCompletion s = .next t ∧ besidesStatus t = besidesStatus X
    let rest := [Op.write x (ch.setWidth 16), .call .setModified, .call .charWritten]
    (charOf (readWord s.mem a) ≠ 0x00#8 → result (refusedAt x .fieldFull { s with port := none })) ∧
    (charOf (readWord s.mem a) = 0x00#8 →
      (off + 1 = f.len → result (claiming (cellAddr u x) (.write .word (ch.setWidth 16)) rest (readTaken a s))) ∧
      (off + 1 < f.len →
        result
          (claiming (cellAddr u (posAt n f (f.len - 2))) .read
            (((List.range (f.len - 1 - off)).reverse).flatMap
                (fun i => [Op.read (posAt n f (off + i)), Op.writeBack (posAt n f (off + i + 1))]) ++ rest)
            (readTaken a s))))) ∧
  (∀ (s : State) (u : SetupBlock) (p : Nat) (w : Word) (code : Byte) (f : Field), s.composer.work = .token (.key code) →
    s.composer.field = some f →
    let n := formSize u
    let x := s.composer.cursor
    let result : State → Prop := fun X =>
      ∃ t, exec .composerTransferCompletion s = .next t ∧ besidesStatus t = besidesStatus X
    let advanced : State → State := fun X =>
      if f.mark ≠ none ∧ offsetOf n f x + 1 = f.len ∧ autoAdvance f.word = true then
        claiming (cellAddr u (posAt n f 0)) .read (cellReads n f ++ [.call (.exitRead none false (.advance x))])
          { X with composer.cursor := (x + 1) % n, composer.buffer := [] }
      else workEnded ((x + 1) % n) X
    (lastWriteDue u p w [.call .setModified, .call .charWritten] s → isMark w = false →
      result (modifiedThen u f [.call .charWritten] advanced (wordWritten u p w s))) ∧
    (lastWriteDue u p w [.call .setModified, .call .finish] s → isMark w = false →
      result (modifiedThen u f [.call .finish] (workEnded x) (wordWritten u p w s))) ∧
    (lastWriteDue u p w [.call .charWritten] s → result (advanced (wordWritten u p w s))) ∧
    (lastWriteDue u p w [.call .finish] s → result (workEnded x (wordWritten u p w s)))) ∧
  (∀ (s : State) (u : SetupBlock) (a : WordAddr) (p : Nat) (code : Byte) (f : Field), claimsJoined s →
    s.setup.active = some u → s.inHand = none → noAbort s → s.composer.work = .token (.key code) →
    s.composer.field = some f →
    s.port = some { owner := .composer, addr := a, op := .read, orphan := false } →
    s.composer.todo = [.eraseCell p, .call .setModified, .call .finish] → readWord s.mem a = 0x0000#16 →
    ∃ t, exec .composerTransferCompletion s = .next t ∧
      besidesStatus t =
        besidesStatus (modifiedThen u f [.call .finish] (workEnded s.composer.cursor) { s with port := none })) ∧
  ∀ (s : State) (u : SetupBlock) (f : Field) (a : WordAddr) (p : Nat) (w : Word) (code : Byte), claimsJoined s →
    memoryCanonical s → s.setup.active = some u → s.map.state = .current → s.posting = none →
    noAbort s → s.composer.work = .token (.key code) → s.composer.field = some f →
    (f.mark = none ∨ offsetOf (formSize u) f s.composer.cursor + 1 ≠ f.len ∨ autoAdvance f.word = false) →
    s.port = some { owner := .composer, addr := a, op := .write .word w, orphan := false } →
    s.composer.todo = [.write p w, .call .charWritten] →
    (s.inHand = none →
      ∃ t, exec .composerTransferCompletion s = .next t ∧
        besidesCauses t =
          besidesCauses
            { s with
              mem := writeLanes s.mem a .word w, port := none, map := t.map, heldRange := .empty,
              composer := idleWith ((s.composer.cursor + 1) % formSize u) s.composer.insertMode s.composer }) ∧
    (∀ tr, s.inHand = some ⟨tr, .held .range⟩ → isWrite tr = true → s.heldRange ≠ .empty →
      ∃ t t0, exec .composerTransferCompletion s = .next t ∧
        exec .composerTransferCompletion { s with inHand := none } = .next t0 ∧ arrivedAt tr t0 t)

/-- The final state word of a list completes and the gather ends: the range is released and the composer is IDLE, the lock
and the cursor as they were. A send offers SEND READY, unless its abort mark is set; GMOD and GUNP complete with DONE,
DONE-TRUNCATED or ABORTED, recorded by an intake that runs them, or that is NONE after a warm reset and takes their code
and operand (R153, R159, R163, R164, R174, R178, R190; log 35 for a second warm reset). A write into the RETURN window
that the gather held is then decided anew, as if it arrived then (R55, R162). An abort met at the opening writes the
count, the used count and ABORTED (R163, R164; that the opening is finished first is the model's, log 12). -/
def Obligations.ListEndsReportAndRelease : Prop :=
  (∀ (s : State) (u : SetupBlock) (a : WordAddr) (w : Word) (st : ListState), claimsJoined s →
    s.setup.active = some u → formPos u a = none → noAbort s ∨ s.composer.listPhase = .aborting →
    (s.composer.listPhase = .closing ∨ s.composer.listPhase = .aborting) →
    s.port = some { owner := .composer, addr := a, op := .write .word w, orphan := false } →
    s.composer.todo = [.list 0 w, .call (.listClosed st)] →
    let ended : State → State := fun X =>
      { X with
        mem := writeLanes s.mem a .word w, port := none, heldRange := .empty, posting := none,
        composer := { idleWith s.composer.cursor s.composer.insertMode s.composer with listPhase := .closed } }
    (s.inHand = none →
      (∀ code, s.composer.work = .token (.key code) →
        (s.composer.abortMark = false →
          ∃ t, exec .composerTransferCompletion s = .next t ∧ t.report.pending = s.report.pending ||| 0x01#8 ∧
            t.report.seen = s.report.seen &&& ~~~0x01#8 ∧ besidesCauses t = besidesCauses (ended s)) ∧
        (s.composer.abortMark = true →
          ∃ t, exec .composerTransferCompletion s = .next t ∧ besidesStatus t = besidesStatus (ended s))) ∧
      (∀ d op, s.composer.work = .directive d op →
        let code : Completion := match st with | .complete => .done | .truncated => .doneTruncated | .aborted => .aborted
        (s.report.intake.state = .running →
          ∃ t, exec .composerTransferCompletion s = .next t ∧ t.report.pending = s.report.pending ||| 0x02#8 ∧
            t.report.seen = s.report.seen &&& ~~~0x02#8 ∧
            besidesCauses t =
              besidesCauses
                (ended { s with report.intake.state := .completed, report.intake.completion := code })) ∧
        (s.report.intake.state = .none →
          ∃ t, exec .composerTransferCompletion s = .next t ∧ t.report.pending = s.report.pending ||| 0x02#8 ∧
            t.report.seen = s.report.seen &&& ~~~0x02#8 ∧
            besidesCauses t =
              besidesCauses
                (ended
                  { s with
                    report.intake :=
                      { s.report.intake with
                        state := .completed, code := directiveCode d, operand := op, completion := code } })) ∧
        (s.report.intake.state = .pending ∨ s.report.intake.state = .completed →
          ∃ t, exec .composerTransferCompletion s = .next t ∧ besidesStatus t = besidesStatus (ended s)))) ∧
    (∀ tr, s.inHand = some ⟨tr, .held .gather⟩ → isWrite tr = true →
      ((∃ code, s.composer.work = .token (.key code)) ∨ ∃ d op, s.composer.work = .directive d op) →
      ∃ t t0, exec .composerTransferCompletion s = .next t ∧
        exec .composerTransferCompletion { s with inHand := none } = .next t0 ∧ arrivedAt tr t0 t)) ∧
  ∀ (s : State) (u : SetupBlock) (a : WordAddr) (w : Word), claimsJoined s →
    s.setup.active = some u → formPos u a = none → s.inHand = none → s.composer.abortMark = true →
    s.composer.listPhase = .opening →
    s.port = some { owner := .composer, addr := a, op := .write .word w, orphan := false } →
    s.composer.todo = [.list 4 w, .call .listOpened] →
    ∃ t, exec .composerTransferCompletion s = .next t ∧
      besidesStatus t =
        besidesStatus (listEnding u .aborted .aborting { s with mem := writeLanes s.mem a .word w, port := none })

/-! ### Directives -/

/-- LOCK, and UNLK with bit 0 of the operand clear, act on the lock alone and complete in the event of the taking:
LOCK makes OPEN and ERROR into SYSTEM(DIRECTIVE) and keeps SYSTEM; UNLK makes SYSTEM into OPEN and is refused in
ERROR. UNLK with bit 0 set runs the clear-modified pass first: it posts CELL at the first mark; on the unformatted screen
it clears the flag, and in LIMIT nothing, and both unlock and complete at once (R118, R146, R174 to R176). -/
def Obligations.LockAndUnlockDirectives : Prop :=
  ∀ s : State, claimsJoined s → rangeFree s →
    let done : Completion → Lock → State → State := fun k l X =>
      offer .directiveDone
        { X with
          lock := l, report.intake.state := .completed, report.intake.completion := k,
          composer := idleWith s.composer.cursor s.composer.insertMode s.composer }
    (directiveReady .lock s →
      ((s.lock = .opened ∨ ∃ e, s.lock = .error e) →
        ∃ t, exec .lock s = .next t ∧ besidesStatus t = besidesStatus (done .done (.system .directive) s)) ∧
      (∀ why, s.lock = .system why →
        ∃ t, exec .lock s = .next t ∧ besidesStatus t = besidesStatus (done .done (.system why) s))) ∧
    (directiveReady .unlk s →
      (∀ e, s.lock = .error e →
        ∃ t, exec .unlk s = .next t ∧ besidesStatus t = besidesStatus (done .refusedState (.error e) s)) ∧
      ((∀ e, s.lock ≠ .error e) →
        (s.report.intake.operand.getLsbD 0 = false →
          ∃ t, exec .unlk s = .next t ∧ besidesStatus t = besidesStatus (done .done .opened s)) ∧
        (∀ u e es, s.report.intake.operand.getLsbD 0 = true → s.setup.active = some u → s.map.state = .current →
          s.map.table = e :: es →
          ∃ t, exec .unlk s = .next t ∧
            besidesStatus t =
              besidesStatus
                (awaiting (.cell e.pos) (.cellTaken e.pos)
                  { s with
                    composer.engine := .directive, composer.work := .directive .unlk s.report.intake.operand,
                    composer.lastHandled := none, report.intake.state := .running })) ∧
        (s.report.intake.operand.getLsbD 0 = true → s.map.table = [] →
          (s.map.state = .current →
            ∃ t, exec .unlk s = .next t ∧
              besidesStatus t = besidesStatus (done .done .opened { s with map.modified := false })) ∧
          (s.map.state = .limit →
            ∃ t, exec .unlk s = .next t ∧ besidesStatus t = besidesStatus (done .done .opened s)))))

/-- PLCR sets the cursor to an operand below N, and is refused with REFUSED-RANGE at N or above, the cursor not
moved; no cell is written and no hold is taken (R177). -/
def Obligations.PlaceCursorDirective : Prop :=
  ∀ (s : State) (u : SetupBlock), claimsJoined s → rangeFree s → s.setup.active = some u → directiveReady .plcr s →
    let n := setupRows u * setupCols u
    let op := s.report.intake.operand.toNat
    let done : Completion → Nat → State := fun k x =>
      offer .directiveDone
        { s with
          report.intake.state := .completed, report.intake.completion := k,
          composer := idleWith x s.composer.insertMode s.composer }
    (op < n → ∃ t, exec .plcr s = .next t ∧ besidesStatus t = besidesStatus (done .done op)) ∧
    (n ≤ op → ∃ t, exec .plcr s = .next t ∧ besidesStatus t = besidesStatus (done .refusedRange s.composer.cursor))

/-- GMOD and GUNP open the return list with key code 00h and the cursor at the taking: the gather is in progress and
the five opening writes are to be made, the state word 8000h first; a write of the processor into the RETURN window that
waits for its grant is held from then on, and any other transfer in hand keeps its standing (R55, R162; log 34). In LIMIT,
or with no RETURN window, they are refused (R156, R161, R178). -/
def Obligations.GatherDirectivesOpenList : Prop :=
  ∀ (s : State) (u : SetupBlock) (c : Instr) (d : Directive), claimsJoined s → s.setup.active = some u →
    s.coldAsserted = false →
    ((c = .gmod ∧ d = .gmod) ∨ (c = .gunp ∧ d = .gunp)) → directiveReady d s →
    (s.map.state ≠ .limit → windowOf u .return ≠ none →
      let intoReturn : Transfer → Prop := fun tr =>
        isWrite tr = true ∧ ∃ w, windowOf u .return = some w ∧ windowCovers u w tr.addr = true
      ∃ t, exec c s = .next t ∧
        (∀ tr r, s.inHand = some ⟨tr, .waiting r⟩ → intoReturn tr → t.inHand = some ⟨tr, .held .gather⟩) ∧
        ((∀ tr r, s.inHand = some ⟨tr, .waiting r⟩ → ¬intoReturn tr) → t.inHand = s.inHand) ∧
        besidesStatus t =
          besidesStatus
            { s with
              inHand := t.inHand, report.intake.state := .running,
              composerClaim :=
                some { owner := .composer, addr := returnAddr u 0, op := .write .word 0x8000#16, orphan := false },
              composer :=
                { s.composer with
                  engine := .directive, work := .directive d s.report.intake.operand, listPhase := .opening,
                  abortMark := false, keyCode := 0x00#8, cursorAtSend := s.composer.cursor, used := 5, count := 0,
                  todo :=
                    [.list 0 0x8000#16, .list 1 0x0000#16, .list 2 (BitVec.ofNat 16 s.composer.cursor),
                     .list 3 0x0000#16, .list 4 0x0005#16, .call .listOpened] } }) ∧
    ((s.map.state = .limit ∨ windowOf u .return = none) → rangeFree s →
      ∃ t, exec c s = .next t ∧
        besidesStatus t =
          besidesStatus
            (offer .directiveDone
              { s with
                report.intake.state := .completed, report.intake.completion := .refusedState,
                composer := { idleWith s.composer.cursor s.composer.insertMode s.composer with abortMark := false } }))

/-- RMOD posts CELL at the first entry, or on the unformatted screen clears the flag and is done at once; CLIN posts
WHOLE; both are refused in LIMIT (R140, R146, R179). -/
def Obligations.ResetModifiedAndClearInput : Prop :=
  ∀ (s : State) (u : SetupBlock), claimsJoined s → rangeFree s → s.setup.active = some u →
    (directiveReady .rmod s → s.map.state = .current →
      (∀ e es, s.map.table = e :: es →
        ∃ t, exec .rmod s = .next t ∧
          besidesStatus t =
            besidesStatus
              { s with
                posting := some (.cell e.pos), report.intake.state := .running,
                composer :=
                  { s.composer with
                    engine := .directive, work := .directive .rmod s.report.intake.operand, lastHandled := none,
                    posted := .cell e.pos, todo := [.post (.cell e.pos), .call (.cellTaken e.pos)] } }) ∧
      (s.map.table = [] →
        ∃ t, exec .rmod s = .next t ∧
          besidesStatus t =
            besidesStatus
              (offer .directiveDone
                { s with
                  map.modified := false, report.intake.state := .completed, report.intake.completion := .done,
                  composer := idleWith s.composer.cursor s.composer.insertMode s.composer }))) ∧
    (directiveReady .clin s → s.map.state = .current →
      ∃ t, exec .clin s = .next t ∧
        besidesStatus t =
          besidesStatus
            { s with
              posting := some .whole, report.intake.state := .running,
              composer :=
                { s.composer with
                  engine := .directive, work := .directive .clin s.report.intake.operand, posted := .whole,
                  todo := [.post .whole, .call .eraseTaken] } }) ∧
    (∀ c d, ((c = .rmod ∧ d = .rmod) ∨ (c = .clin ∧ d = .clin)) → directiveReady d s → s.map.state = .limit →
      ∃ t, exec c s = .next t ∧
        besidesStatus t =
          besidesStatus
            (offer .directiveDone
              { s with
                report.intake.state := .completed, report.intake.completion := .refusedState,
                composer := idleWith s.composer.cursor s.composer.insertMode s.composer }))

/-- FLSH empties the queue and frees the slots of its SCAN tokens, with no DISCARD count, no tone and the lock as it
was; the claims that waited, in whatever order they stand in the claim order, then join in that order, the held code's
token from the holding stage, which is then EMPTY, and each READY scan's slot QUEUED (R108, R109, R113, R181). -/
def Obligations.FlushEmptiesQueue : Prop :=
  ∀ s : State, rangeFree s → directiveReady .flsh s → s.claimOrder.length ≤ 32 →
    heldClaims s = (if s.holding.isSome then 1 else 0) →
    ∃ t, exec .flsh s = .next t ∧ t.report.pending = s.report.pending ||| 0x02#8 ∧
      t.report.seen = s.report.seen &&& ~~~0x02#8 ∧
      besidesCauses t =
        besidesCauses
          { s with
            queue := t.queue, holding := none, slots := t.slots, claimOrder := [],
            report.intake.state := .completed, report.intake.completion := .done,
            composer := idleWith s.composer.cursor s.composer.insertMode s.composer } ∧
      t.queue =
        s.claimOrder.filterMap (fun c =>
          match c.who with
          | .held => s.holding.map (fun h => Token.key h.code)
          | .slot i => some (.scan i)) ∧
      ∀ i,
        let v :=
          if Token.scan i ∈ s.queue then { getSlot s.slots i with state := .free, stamp := none } else getSlot s.slots i
        getSlot t.slots i = if i ∈ s.readyOrder then { v with state := .queued } else v

/-! ### The status pass and the attention pulse -/

/-- A status write completes: its word is in memory and the next cell is claimed; after the last the pass ends, and a
new one begins at once if an update was requested (R183). The end of a pulse leaves ATTN inactive in pulse mode and
changes no cause (R188). The image is laid out column by column: the lock's eight cells, insert mode's three, the row
and the column counted from 1, and the mirror word with the cursor (R182, 12.6). A command after which the lock, its reason or code,
insert mode or the cursor differs requests an update, or begins the pass with the new image (R183); cold reset alone
clears the request (R189). -/
def Obligations.StatusPassAndPulse : Prop :=
  (∀ (s : State) (u : SetupBlock), claimsJoined s → s.setup.active = some u →
    (∀ (a : WordAddr) (v : Word) (c : Nat × Word),
      s.port = some { owner := .status, addr := a, op := .write .word v, orphan := false } →
      (∀ d rest, s.report.statusLeft = c :: d :: rest →
        exec .statusWriteCompletion s =
          .next
            { s with
              mem := writeLanes s.mem a .word v, port := none, report.statusLeft := d :: rest,
              reportClaim :=
                some { owner := .status, addr := cellAddr u d.1, op := .write .word d.2, orphan := false } }) ∧
      (s.report.statusLeft = [c] → s.report.updateRequested = false →
        exec .statusWriteCompletion s =
          .next
            { s with
              mem := writeLanes s.mem a .word v, port := none, report.statusLeft := [], reportClaim := none }) ∧
      (s.report.statusLeft = [c] → s.report.updateRequested = true →
        ∃ t, exec .statusWriteCompletion s = .next t ∧ t.mem = writeLanes s.mem a .word v ∧ t.port = none ∧
          t.report.statusLeft = statusImage u s ∧ t.report.updateRequested = false)) ∧
    (pulseMode u = true → s.report.pulse = true →
      ∃ t, exec .attnPulseEnd s = .next t ∧
        besidesStatus t = besidesStatus { s with report.pulse := false, attn := false })) ∧
  (∀ (s : State) (u : SetupBlock),
    let n := setupRows u * setupCols u
    let cols := setupCols u
    let x := s.composer.cursor
    let digit : Nat → Word := fun d => BitVec.ofNat 16 (0x30 + d % 10)
    let lockCell : Nat → Word := fun j =>
      match s.lock with
      | .opened => 0x0020#16
      | .system _ => [0x0057#16, 0x0041#16, 0x0049#16, 0x0054#16].getD j 0x0020#16
      | .error c =>
        [0x0045#16, 0x0052#16, 0x0052#16, 0x0020#16, 0x0030#16,
          (match c with
           | .isProtected => 0x0031#16 | .fieldFull => 0x0032#16 | .wrongCharacter => 0x0033#16
           | .checkDigit => 0x0034#16 | .mustEnter => 0x0035#16 | .mustFill => 0x0036#16
           | .formatLimit => 0x0037#16)].getD j 0x0020#16
    let cell : Nat → Word := fun j =>
      if j < 8 then lockCell j
      else if s.composer.insertMode = true ∧ 9 ≤ j ∧ j ≤ 11 then [0x0049#16, 0x004E#16, 0x0053#16].getD (j - 9) 0x0020#16
      else if j = cols - 7 then digit ((x / cols + 1) / 10)
      else if j = cols - 6 then digit (x / cols + 1)
      else if j = cols - 5 then 0x002F#16
      else if j = cols - 4 then digit ((x % cols + 1) / 100)
      else if j = cols - 3 then digit ((x % cols + 1) / 10)
      else if j = cols - 2 then digit (x % cols + 1)
      else 0x0020#16
    (statusRowOn u = false → statusImage u s = [(n, BitVec.ofNat 16 x)]) ∧
    (statusRowOn u = true → 24 ≤ cols →
      statusImage u s = (List.range cols).map (fun j => (n + j, cell j)) ++ [(n + cols, BitVec.ofNat 16 x)])) ∧
  ∀ (c : Instr) (s t : State), c ≠ .coldReset → exec c s = .next t →
    (t.lock ≠ s.lock ∨ t.composer.insertMode ≠ s.composer.insertMode ∨ t.composer.cursor ≠ s.composer.cursor) →
    t.report.updateRequested = true ∨ ∃ u, t.setup.active = some u ∧ t.report.statusLeft = statusImage u t

/-! ### Arithmetic of entries (chapter 2) -/

/-- Adjust keeps the length and the significant cells in order, with fill before them: '0' for ZERO, blank for BLANK, null
for NULL; NONE leaves the cells. The minus form of t significant cells, t below the length, has them one cell further left
and ends in '-', NONE taking blank fill (R38 to R40). -/
def Obligations.AdjustKeepsSignificantCells : Prop :=
  ∀ (a : Adjust) (ws : List Word),
    let significant := ws.filter (fun w => w.setWidth 8 != 0x00#8 && w.setWidth 8 != 0x20#8)
    let fill : Word := match a with | .none => 0x0020#16 | .zero => 0x0030#16 | .blank => 0x0020#16 | .null => 0x0000#16
    (a = .none → adjustCells a ws = ws) ∧
    (a ≠ .none → adjustCells a ws = List.replicate (ws.length - significant.length) fill ++ significant) ∧
    (adjustCells a ws).length = ws.length ∧
    minusCells a ws = List.replicate (ws.length - 1 - significant.length) fill ++ significant ++ [0x002D#16] ∧
    (significant.length < ws.length → (minusCells a ws).length = ws.length)

/-- The weighted sum S of data digits counts from the rightmost leftward: under WEIGHTED 3 times the digit at odd places,
under DOUBLING twice the digit, less 9 above 9, and the digit itself at even places. The expected check is
(10 − (S mod 10)) mod 10: a number followed by that digit passes the check test, and followed by any other digit fails it
(R43; R41, R42). -/
def Obligations.CheckDigitDecides : Prop :=
  ∀ (sch : CheckScheme) (ds : List Nat) (d : Nat), ds ≠ [] → (∀ x ∈ ds, x < 10) → d < 10 →
    let char : Nat → Byte := fun x => BitVec.ofNat 8 (0x30 + x)
    let term : Nat × Nat → Nat := fun p =>
      if p.2 % 2 = 1 then p.1
      else match sch with
        | .weighted => 3 * p.1
        | .doubling => if 9 < 2 * p.1 then 2 * p.1 - 9 else 2 * p.1
    let sum := (ds.reverse.zipIdx.map term).sum
    checkPasses sch (ds.map char ++ [char d]) = decide (d = (10 - sum % 10) % 10)

/-! ### Invariants -/

/-- Every step keeps memory in canonical form. -/
def Obligations.MemoryStaysCanonical : Prop :=
  ∀ s t : State, memoryCanonical s → step s = .next t → memoryCanonical t

/-- Every step keeps the fairness count at most 8 and the seen set within the pending set (R68, R166). -/
def Obligations.FairnessAndSeenSetBounded : Prop :=
  ∀ s t : State, fairnessBounded s → seenWithinPending s → step s = .next t →
    fairnessBounded t ∧ seenWithinPending t

/-- Every step keeps ATTN at the level of R188: inactive with no setup active, in level mode asserted exactly when an
enabled cause is pending, in pulse mode the pulse. An offer of a cause adds it to the pending set and takes it out of the
seen set (R184), and in pulse mode begins a pulse exactly when the cause is enabled and was not pending (R188). -/
def Obligations.AttentionFollowsCauses : Prop :=
  (∀ s t : State, attnDriven s → step s = .next t → attnDriven t) ∧
  (∀ s : State, attnDriven s ↔
    (s.setup.active = none → s.attn = false) ∧
    ∀ u, s.setup.active = some u →
      (pulseMode u = false →
        (s.attn = true ↔ ∃ b < 8, s.report.pending.getLsbD b = true ∧ (setupWord u 15).getLsbD b = true)) ∧
      (pulseMode u = true → s.attn = s.report.pulse)) ∧
  ∀ (c : Cause) (s : State),
    let b := match c with
      | .sendReady => 0 | .directiveDone => 1 | .scanDrop => 2 | .lineError => 3 | .loss => 4 | .protect => 5
      | .formatLimit => 6 | .setupResult => 7
    (∀ i < 8, (offer c s).report.pending.getLsbD i = (s.report.pending.getLsbD i || i == b)) ∧
    (∀ i < 8, (offer c s).report.seen.getLsbD i = (s.report.seen.getLsbD i && i != b)) ∧
    (∀ u, s.setup.active = some u → pulseMode u = true →
      (offer c s).report.pulse =
          (s.report.pulse || ((setupWord u 15).getLsbD b && !s.report.pending.getLsbD b)) ∧
        (offer c s).attn = (offer c s).report.pulse)

/-- Every step keeps the active setup validated and the cursor below its N (R126, R196, R198). -/
def Obligations.CursorStaysInsideForm : Prop :=
  ∀ s t : State, setupValid s → cursorInside s → step s = .next t → setupValid t ∧ cursorInside t

/-- Every step keeps the map table at most 256 entries in strictly increasing order below N (R8, R9). -/
def Obligations.MapTableStaysOrdered : Prop :=
  ∀ s t : State, setupValid s → mapOrdered s → step s = .next t → mapOrdered t

/-- Every step keeps the queue, the claim order, the holding stage, the slots and the composer's token in agreement:
among them, the SCAN tokens of the queue are the QUEUED slots, the queue holds at most 32 tokens, at most one slot is
COLLECTING, no slot holds more than 40 characters (R92, R93, R103, R107 to R109). -/
def Obligations.QueueAndSlotsStayInAgreement : Prop :=
  ∀ s t : State, queueAgrees s → step s = .next t → queueAgrees t

/-- Every step keeps the field map equal to the form area: whenever the map is CURRENT, it has an entry at a position
exactly when the cell there in memory is a mark cell, with that mark word (R10, R20). -/
def Obligations.FieldMapMatchesFormArea : Prop :=
  ∀ s t : State, mapFaithful s → step s = .next t → mapFaithful t

/-- The invariants hold at reset, and cold reset followed by its end with straps 0 gives the state at reset again
(R200, log 1). -/
def Obligations.InvariantsHoldAtReset : Prop :=
  mapFaithful State.reset ∧ fairnessBounded State.reset ∧ seenWithinPending State.reset ∧ attnDriven State.reset ∧
    cursorInside State.reset ∧ queueAgrees State.reset ∧
    ∃ t, exec .coldReset State.reset = .next t ∧ exec (.coldResetEnd 0#4) t = .next State.reset

end
end

