-- ==== Sys2Proof/Laws/Memory.lean ====
section
/-! SUPPORT. Memory keeps its canonical form under every write, and a read gives what was written last. -/

namespace Sys2Proof.Machine

theorem readByte_nil (a : Nat) : readByte [] a = Config.unwrittenByte := rfl

theorem readByte_cons (b : Nat) (v : Byte) (r : Memory) (a : Nat) :
    readByte ((b, v) :: r) a = if b = a then v else readByte r a := rfl

/-- A memory whose addresses all lie above a gives the unwritten byte at a. -/
theorem readByte_below (m : Memory) (a : Nat) (h : ∀ c ∈ m, a < c.1) : readByte m a = Config.unwrittenByte := by
  induction m with
  | nil => rfl
  | cons c r ih =>
    obtain ⟨b, v⟩ := c
    have hb : a < b := h (b, v) (by simp)
    rw [readByte_cons, if_neg (by omega)]
    exact ih (fun c hc => h c (by simp [hc]))

/-- The cells of a written memory are those of the memory before, or the one written. -/
theorem mem_writeByte (m : Memory) (a : Nat) (v : Byte) (c : Host.Cell) (h : c ∈ writeByte m a v) :
    c ∈ m ∨ (c = (a, v) ∧ v ≠ Config.unwrittenByte) := by
  induction m with
  | nil =>
    simp only [writeByte] at h
    split at h <;> simp_all
  | cons d r ih =>
    obtain ⟨b, w⟩ := d
    simp only [writeByte] at h
    split at h
    · split at h
      · exact Or.inl h
      · rcases List.mem_cons.mp h with h | h
        · exact Or.inr ⟨h, by assumption⟩
        · exact Or.inl h
    · split at h
      · split at h
        · exact Or.inl (by simp [h])
        · rcases List.mem_cons.mp h with h | h
          · exact Or.inr ⟨h, by assumption⟩
          · exact Or.inl (by simp [h])
      · rcases List.mem_cons.mp h with h | h
        · exact Or.inl (by simp [h])
        · rcases ih h with h | h
          · exact Or.inl (by simp [h])
          · exact Or.inr h

/-- A byte write inside the address space keeps the canonical form. -/
theorem Memory.wf_writeByte (m : Memory) (a : Nat) (v : Byte) (ha : a < 2 ^ 24) (h : Memory.wf m) :
    Memory.wf (writeByte m a v) := by
  refine ⟨?_, ?_⟩
  · have hp := h.1
    clear h ha
    induction m with
    | nil => simp only [writeByte]; split <;> simp
    | cons d r ih =>
      obtain ⟨b, w⟩ := d
      rw [List.pairwise_cons] at hp
      simp only [writeByte]
      split
      · split
        · exact List.pairwise_cons.mpr hp
        · rw [List.pairwise_cons]
          refine ⟨?_, List.pairwise_cons.mpr hp⟩
          intro c hc
          rcases List.mem_cons.mp hc with hc | hc
          · subst hc; assumption
          · have := hp.1 c hc; simp at *; omega
      · split
        · split
          · exact hp.2
          · rename_i _ hab _
            subst hab
            exact List.pairwise_cons.mpr ⟨hp.1, hp.2⟩
        · rw [List.pairwise_cons]
          refine ⟨?_, ih hp.2⟩
          intro c hc
          rcases mem_writeByte r a v c hc with hc | hc
          · exact hp.1 c hc
          · rw [hc.1]; simp; omega
  · intro c hc
    rcases mem_writeByte m a v c hc with hc | hc
    · exact h.2 c hc
    · rw [hc.1]; exact ⟨hc.2, ha⟩

/-- A byte reads as it was written last. -/
theorem readByte_writeByte_same (m : Memory) (a : Nat) (v : Byte) (h : m.Pairwise (fun x y => x.1 < y.1)) :
    readByte (writeByte m a v) a = v := by
  induction m with
  | nil => simp only [writeByte]; split <;> simp_all [readByte]
  | cons d r ih =>
    obtain ⟨b, w⟩ := d
    rw [List.pairwise_cons] at h
    simp only [writeByte]
    split
    · rename_i hab
      split
      · rename_i hv
        rw [hv]
        apply readByte_below
        intro c hc
        rcases List.mem_cons.mp hc with hc | hc
        · subst hc; exact hab
        · have := h.1 c hc; simp at *; omega
      · simp [readByte]
    · split
      · rename_i hab
        split
        · rename_i hv
          rw [hv]
          apply readByte_below
          intro c hc
          have := h.1 c hc
          simp at *; omega
        · simp [readByte]
      · rename_i h1 h2
        rw [readByte_cons, if_neg (by omega)]
        exact ih h.2

/-- Every other byte reads as before. -/
theorem readByte_writeByte_other (m : Memory) (a b : Nat) (v : Byte) (h : m.Pairwise (fun x y => x.1 < y.1))
    (hab : b ≠ a) : readByte (writeByte m a v) b = readByte m b := by
  induction m with
  | nil => simp only [writeByte]; split <;> simp [readByte]; omega
  | cons d r ih =>
    obtain ⟨c, w⟩ := d
    rw [List.pairwise_cons] at h
    simp only [writeByte]
    split
    · split
      · rfl
      · rw [readByte_cons, if_neg (by omega)]
    · split
      · rename_i hac
        split
        · rw [readByte_cons, if_neg (by omega)]
        · rw [readByte_cons, readByte_cons, if_neg (by omega), if_neg (by omega)]
      · rw [readByte_cons, readByte_cons, ih h.2]

theorem byteAddr_lt (a : WordAddr) : byteAddr a + 1 < 2 ^ 24 := by
  have := a.isLt
  simp only [byteAddr]
  omega

/-- A lane write keeps the canonical form. -/
theorem Memory.wf_writeLanes (m : Memory) (a : WordAddr) (l : Lanes) (w : Word) (h : Memory.wf m) :
    Memory.wf (writeLanes m a l w) := by
  have ha := byteAddr_lt a
  cases l with
  | low => exact Memory.wf_writeByte _ _ _ (by omega) h
  | high => exact Memory.wf_writeByte _ _ _ ha h
  | word => exact Memory.wf_writeByte _ _ _ ha (Memory.wf_writeByte _ _ _ (by omega) h)

/-- Every completed transfer keeps the canonical form. -/
theorem Memory.wf_memAfter (m : Memory) (t : PortTransfer) (h : Memory.wf m) : Memory.wf (memAfter m t) := by
  unfold memAfter
  split
  · exact h
  · exact Memory.wf_writeLanes _ _ _ _ h

theorem word_of_bytes (w : Word) : ((w >>> 8).setWidth 8 ++ w.setWidth 8 : BitVec (8 + 8)) = w := by
  apply BitVec.eq_of_getLsbD_eq
  intro i hi
  simp only [BitVec.getLsbD_append, BitVec.getLsbD_setWidth, BitVec.getLsbD_ushiftRight]
  by_cases h : i < 8
  · simp [h]
  · have : i - 8 < 8 := by omega
    simp [h, this]
    congr 1
    omega

/-- A word write reads back. -/
theorem readWord_writeWord (m : Memory) (a : WordAddr) (w : Word) (h : Memory.wf m) :
    readWord (writeLanes m a .word w) a = w := by
  have h1 := (Memory.wf_writeLanes m a .low w h).1
  simp only [writeLanes] at h1
  simp only [readWord, writeLanes]
  rw [readByte_writeByte_same _ _ _ h1, readByte_writeByte_other _ _ _ _ h1 (by omega),
    readByte_writeByte_same _ _ _ h.1]
  exact word_of_bytes w

/-- A lane write leaves every byte outside the word as it was. -/
theorem readByte_writeLanes_other (m : Memory) (a : WordAddr) (l : Lanes) (w : Word) (b : Nat) (h : Memory.wf m)
    (h0 : b ≠ byteAddr a) (h1 : b ≠ byteAddr a + 1) : readByte (writeLanes m a l w) b = readByte m b := by
  have hl := (Memory.wf_writeLanes m a .low w h).1
  simp only [writeLanes] at hl
  cases l with
  | low => exact readByte_writeByte_other _ _ _ _ h.1 h0
  | high => exact readByte_writeByte_other _ _ _ _ h.1 h1
  | word =>
    simp only [writeLanes]
    rw [readByte_writeByte_other _ _ _ _ hl h1, readByte_writeByte_other _ _ _ _ h.1 h0]

/-- A word elsewhere reads as before. -/
theorem readWord_writeLanes_other (m : Memory) (a b : WordAddr) (l : Lanes) (w : Word) (h : Memory.wf m)
    (hab : b ≠ a) : readWord (writeLanes m a l w) b = readWord m b := by
  have hne : b.toNat ≠ a.toNat := fun e => hab (BitVec.eq_of_toNat_eq e)
  simp only [readWord]
  rw [readByte_writeLanes_other m a l w _ h (by simp only [byteAddr]; omega) (by simp only [byteAddr]; omega),
    readByte_writeLanes_other m a l w _ h (by simp only [byteAddr]; omega) (by simp only [byteAddr]; omega)]

end Sys2Proof.Machine
end

