-- ==== Sys2Proof/Laws/State.lean ====
section
/-! SUPPORT. One lemma per field and named update: the fields an update of State leaves as they were. -/

namespace Sys2Proof.Machine

/-! `driveAttn` changes attn. -/

@[simp] theorem driveAttn_keeps_coldAsserted (s : State) : (driveAttn s).coldAsserted = s.coldAsserted := rfl
@[simp] theorem driveAttn_keeps_mem (s : State) : (driveAttn s).mem = s.mem := rfl
@[simp] theorem driveAttn_keeps_inHand (s : State) : (driveAttn s).inHand = s.inHand := rfl
@[simp] theorem driveAttn_keeps_answer (s : State) : (driveAttn s).answer = s.answer := rfl
@[simp] theorem driveAttn_keeps_heldRange (s : State) : (driveAttn s).heldRange = s.heldRange := rfl
@[simp] theorem driveAttn_keeps_posting (s : State) : (driveAttn s).posting = s.posting := rfl
@[simp] theorem driveAttn_keeps_port (s : State) : (driveAttn s).port = s.port := rfl
@[simp] theorem driveAttn_keeps_fairness (s : State) : (driveAttn s).fairness = s.fairness := rfl
@[simp] theorem driveAttn_keeps_setupClaim (s : State) : (driveAttn s).setupClaim = s.setupClaim := rfl
@[simp] theorem driveAttn_keeps_reportClaim (s : State) : (driveAttn s).reportClaim = s.reportClaim := rfl
@[simp] theorem driveAttn_keeps_composerClaim (s : State) : (driveAttn s).composerClaim = s.composerClaim := rfl
@[simp] theorem driveAttn_keeps_map (s : State) : (driveAttn s).map = s.map := rfl
@[simp] theorem driveAttn_keeps_composer (s : State) : (driveAttn s).composer = s.composer := rfl
@[simp] theorem driveAttn_keeps_keyboard (s : State) : (driveAttn s).keyboard = s.keyboard := rfl
@[simp] theorem driveAttn_keeps_holding (s : State) : (driveAttn s).holding = s.holding := rfl
@[simp] theorem driveAttn_keeps_scanner (s : State) : (driveAttn s).scanner = s.scanner := rfl
@[simp] theorem driveAttn_keeps_lineFormat (s : State) : (driveAttn s).lineFormat = s.lineFormat := rfl
@[simp] theorem driveAttn_keeps_pendingFormat (s : State) : (driveAttn s).pendingFormat = s.pendingFormat := rfl
@[simp] theorem driveAttn_keeps_slots (s : State) : (driveAttn s).slots = s.slots := rfl
@[simp] theorem driveAttn_keeps_collecting (s : State) : (driveAttn s).collecting = s.collecting := rfl
@[simp] theorem driveAttn_keeps_terminator (s : State) : (driveAttn s).terminator = s.terminator := rfl
@[simp] theorem driveAttn_keeps_record (s : State) : (driveAttn s).record = s.record := rfl
@[simp] theorem driveAttn_keeps_timer (s : State) : (driveAttn s).timer = s.timer := rfl
@[simp] theorem driveAttn_keeps_queue (s : State) : (driveAttn s).queue = s.queue := rfl
@[simp] theorem driveAttn_keeps_claimOrder (s : State) : (driveAttn s).claimOrder = s.claimOrder := rfl
@[simp] theorem driveAttn_keeps_lock (s : State) : (driveAttn s).lock = s.lock := rfl
@[simp] theorem driveAttn_keeps_tone (s : State) : (driveAttn s).tone = s.tone := rfl
@[simp] theorem driveAttn_keeps_report (s : State) : (driveAttn s).report = s.report := rfl
@[simp] theorem driveAttn_keeps_setup (s : State) : (driveAttn s).setup = s.setup := rfl
@[simp] theorem driveAttn_keeps_freeIndex (s : State) : (driveAttn s).freeIndex = s.freeIndex := rfl
@[simp] theorem driveAttn_keeps_pending (s : State) : (driveAttn s).pending = s.pending := rfl

/-! `offer` changes report and attn. -/

@[simp] theorem offer_keeps_coldAsserted (c : Cause) (s : State) : (offer c s).coldAsserted = s.coldAsserted := rfl
@[simp] theorem offer_keeps_mem (c : Cause) (s : State) : (offer c s).mem = s.mem := rfl
@[simp] theorem offer_keeps_inHand (c : Cause) (s : State) : (offer c s).inHand = s.inHand := rfl
@[simp] theorem offer_keeps_answer (c : Cause) (s : State) : (offer c s).answer = s.answer := rfl
@[simp] theorem offer_keeps_heldRange (c : Cause) (s : State) : (offer c s).heldRange = s.heldRange := rfl
@[simp] theorem offer_keeps_posting (c : Cause) (s : State) : (offer c s).posting = s.posting := rfl
@[simp] theorem offer_keeps_port (c : Cause) (s : State) : (offer c s).port = s.port := rfl
@[simp] theorem offer_keeps_fairness (c : Cause) (s : State) : (offer c s).fairness = s.fairness := rfl
@[simp] theorem offer_keeps_setupClaim (c : Cause) (s : State) : (offer c s).setupClaim = s.setupClaim := rfl
@[simp] theorem offer_keeps_reportClaim (c : Cause) (s : State) : (offer c s).reportClaim = s.reportClaim := rfl
@[simp] theorem offer_keeps_composerClaim (c : Cause) (s : State) : (offer c s).composerClaim = s.composerClaim := rfl
@[simp] theorem offer_keeps_map (c : Cause) (s : State) : (offer c s).map = s.map := rfl
@[simp] theorem offer_keeps_composer (c : Cause) (s : State) : (offer c s).composer = s.composer := rfl
@[simp] theorem offer_keeps_keyboard (c : Cause) (s : State) : (offer c s).keyboard = s.keyboard := rfl
@[simp] theorem offer_keeps_holding (c : Cause) (s : State) : (offer c s).holding = s.holding := rfl
@[simp] theorem offer_keeps_scanner (c : Cause) (s : State) : (offer c s).scanner = s.scanner := rfl
@[simp] theorem offer_keeps_lineFormat (c : Cause) (s : State) : (offer c s).lineFormat = s.lineFormat := rfl
@[simp] theorem offer_keeps_pendingFormat (c : Cause) (s : State) : (offer c s).pendingFormat = s.pendingFormat := rfl
@[simp] theorem offer_keeps_slots (c : Cause) (s : State) : (offer c s).slots = s.slots := rfl
@[simp] theorem offer_keeps_collecting (c : Cause) (s : State) : (offer c s).collecting = s.collecting := rfl
@[simp] theorem offer_keeps_terminator (c : Cause) (s : State) : (offer c s).terminator = s.terminator := rfl
@[simp] theorem offer_keeps_record (c : Cause) (s : State) : (offer c s).record = s.record := rfl
@[simp] theorem offer_keeps_timer (c : Cause) (s : State) : (offer c s).timer = s.timer := rfl
@[simp] theorem offer_keeps_queue (c : Cause) (s : State) : (offer c s).queue = s.queue := rfl
@[simp] theorem offer_keeps_claimOrder (c : Cause) (s : State) : (offer c s).claimOrder = s.claimOrder := rfl
@[simp] theorem offer_keeps_lock (c : Cause) (s : State) : (offer c s).lock = s.lock := rfl
@[simp] theorem offer_keeps_tone (c : Cause) (s : State) : (offer c s).tone = s.tone := rfl
@[simp] theorem offer_keeps_setup (c : Cause) (s : State) : (offer c s).setup = s.setup := rfl
@[simp] theorem offer_keeps_freeIndex (c : Cause) (s : State) : (offer c s).freeIndex = s.freeIndex := rfl
@[simp] theorem offer_keeps_pending (c : Cause) (s : State) : (offer c s).pending = s.pending := rfl

/-! `count` changes report. -/

@[simp] theorem count_keeps_coldAsserted (k : Counter) (s : State) : (count k s).coldAsserted = s.coldAsserted := rfl
@[simp] theorem count_keeps_mem (k : Counter) (s : State) : (count k s).mem = s.mem := rfl
@[simp] theorem count_keeps_inHand (k : Counter) (s : State) : (count k s).inHand = s.inHand := rfl
@[simp] theorem count_keeps_answer (k : Counter) (s : State) : (count k s).answer = s.answer := rfl
@[simp] theorem count_keeps_heldRange (k : Counter) (s : State) : (count k s).heldRange = s.heldRange := rfl
@[simp] theorem count_keeps_posting (k : Counter) (s : State) : (count k s).posting = s.posting := rfl
@[simp] theorem count_keeps_port (k : Counter) (s : State) : (count k s).port = s.port := rfl
@[simp] theorem count_keeps_fairness (k : Counter) (s : State) : (count k s).fairness = s.fairness := rfl
@[simp] theorem count_keeps_setupClaim (k : Counter) (s : State) : (count k s).setupClaim = s.setupClaim := rfl
@[simp] theorem count_keeps_reportClaim (k : Counter) (s : State) : (count k s).reportClaim = s.reportClaim := rfl
@[simp] theorem count_keeps_composerClaim (k : Counter) (s : State) : (count k s).composerClaim = s.composerClaim := rfl
@[simp] theorem count_keeps_map (k : Counter) (s : State) : (count k s).map = s.map := rfl
@[simp] theorem count_keeps_composer (k : Counter) (s : State) : (count k s).composer = s.composer := rfl
@[simp] theorem count_keeps_keyboard (k : Counter) (s : State) : (count k s).keyboard = s.keyboard := rfl
@[simp] theorem count_keeps_holding (k : Counter) (s : State) : (count k s).holding = s.holding := rfl
@[simp] theorem count_keeps_scanner (k : Counter) (s : State) : (count k s).scanner = s.scanner := rfl
@[simp] theorem count_keeps_lineFormat (k : Counter) (s : State) : (count k s).lineFormat = s.lineFormat := rfl
@[simp] theorem count_keeps_pendingFormat (k : Counter) (s : State) : (count k s).pendingFormat = s.pendingFormat := rfl
@[simp] theorem count_keeps_slots (k : Counter) (s : State) : (count k s).slots = s.slots := rfl
@[simp] theorem count_keeps_collecting (k : Counter) (s : State) : (count k s).collecting = s.collecting := rfl
@[simp] theorem count_keeps_terminator (k : Counter) (s : State) : (count k s).terminator = s.terminator := rfl
@[simp] theorem count_keeps_record (k : Counter) (s : State) : (count k s).record = s.record := rfl
@[simp] theorem count_keeps_timer (k : Counter) (s : State) : (count k s).timer = s.timer := rfl
@[simp] theorem count_keeps_queue (k : Counter) (s : State) : (count k s).queue = s.queue := rfl
@[simp] theorem count_keeps_claimOrder (k : Counter) (s : State) : (count k s).claimOrder = s.claimOrder := rfl
@[simp] theorem count_keeps_lock (k : Counter) (s : State) : (count k s).lock = s.lock := rfl
@[simp] theorem count_keeps_tone (k : Counter) (s : State) : (count k s).tone = s.tone := rfl
@[simp] theorem count_keeps_attn (k : Counter) (s : State) : (count k s).attn = s.attn := rfl
@[simp] theorem count_keeps_setup (k : Counter) (s : State) : (count k s).setup = s.setup := rfl
@[simp] theorem count_keeps_freeIndex (k : Counter) (s : State) : (count k s).freeIndex = s.freeIndex := rfl
@[simp] theorem count_keeps_pending (k : Counter) (s : State) : (count k s).pending = s.pending := rfl

/-! `toneTrigger` changes tone and timer. -/

@[simp] theorem toneTrigger_keeps_coldAsserted (s : State) : (toneTrigger s).coldAsserted = s.coldAsserted := rfl
@[simp] theorem toneTrigger_keeps_mem (s : State) : (toneTrigger s).mem = s.mem := rfl
@[simp] theorem toneTrigger_keeps_inHand (s : State) : (toneTrigger s).inHand = s.inHand := rfl
@[simp] theorem toneTrigger_keeps_answer (s : State) : (toneTrigger s).answer = s.answer := rfl
@[simp] theorem toneTrigger_keeps_heldRange (s : State) : (toneTrigger s).heldRange = s.heldRange := rfl
@[simp] theorem toneTrigger_keeps_posting (s : State) : (toneTrigger s).posting = s.posting := rfl
@[simp] theorem toneTrigger_keeps_port (s : State) : (toneTrigger s).port = s.port := rfl
@[simp] theorem toneTrigger_keeps_fairness (s : State) : (toneTrigger s).fairness = s.fairness := rfl
@[simp] theorem toneTrigger_keeps_setupClaim (s : State) : (toneTrigger s).setupClaim = s.setupClaim := rfl
@[simp] theorem toneTrigger_keeps_reportClaim (s : State) : (toneTrigger s).reportClaim = s.reportClaim := rfl
@[simp] theorem toneTrigger_keeps_composerClaim (s : State) : (toneTrigger s).composerClaim = s.composerClaim := rfl
@[simp] theorem toneTrigger_keeps_map (s : State) : (toneTrigger s).map = s.map := rfl
@[simp] theorem toneTrigger_keeps_composer (s : State) : (toneTrigger s).composer = s.composer := rfl
@[simp] theorem toneTrigger_keeps_keyboard (s : State) : (toneTrigger s).keyboard = s.keyboard := rfl
@[simp] theorem toneTrigger_keeps_holding (s : State) : (toneTrigger s).holding = s.holding := rfl
@[simp] theorem toneTrigger_keeps_scanner (s : State) : (toneTrigger s).scanner = s.scanner := rfl
@[simp] theorem toneTrigger_keeps_lineFormat (s : State) : (toneTrigger s).lineFormat = s.lineFormat := rfl
@[simp] theorem toneTrigger_keeps_pendingFormat (s : State) : (toneTrigger s).pendingFormat = s.pendingFormat := rfl
@[simp] theorem toneTrigger_keeps_slots (s : State) : (toneTrigger s).slots = s.slots := rfl
@[simp] theorem toneTrigger_keeps_collecting (s : State) : (toneTrigger s).collecting = s.collecting := rfl
@[simp] theorem toneTrigger_keeps_terminator (s : State) : (toneTrigger s).terminator = s.terminator := rfl
@[simp] theorem toneTrigger_keeps_record (s : State) : (toneTrigger s).record = s.record := rfl
@[simp] theorem toneTrigger_keeps_queue (s : State) : (toneTrigger s).queue = s.queue := rfl
@[simp] theorem toneTrigger_keeps_claimOrder (s : State) : (toneTrigger s).claimOrder = s.claimOrder := rfl
@[simp] theorem toneTrigger_keeps_lock (s : State) : (toneTrigger s).lock = s.lock := rfl
@[simp] theorem toneTrigger_keeps_report (s : State) : (toneTrigger s).report = s.report := rfl
@[simp] theorem toneTrigger_keeps_attn (s : State) : (toneTrigger s).attn = s.attn := rfl
@[simp] theorem toneTrigger_keeps_setup (s : State) : (toneTrigger s).setup = s.setup := rfl
@[simp] theorem toneTrigger_keeps_freeIndex (s : State) : (toneTrigger s).freeIndex = s.freeIndex := rfl
@[simp] theorem toneTrigger_keeps_pending (s : State) : (toneTrigger s).pending = s.pending := rfl

/-! `idleComposer` changes composer. -/

@[simp] theorem idleComposer_keeps_coldAsserted (s : State) : (idleComposer s).coldAsserted = s.coldAsserted := rfl
@[simp] theorem idleComposer_keeps_mem (s : State) : (idleComposer s).mem = s.mem := rfl
@[simp] theorem idleComposer_keeps_inHand (s : State) : (idleComposer s).inHand = s.inHand := rfl
@[simp] theorem idleComposer_keeps_answer (s : State) : (idleComposer s).answer = s.answer := rfl
@[simp] theorem idleComposer_keeps_heldRange (s : State) : (idleComposer s).heldRange = s.heldRange := rfl
@[simp] theorem idleComposer_keeps_posting (s : State) : (idleComposer s).posting = s.posting := rfl
@[simp] theorem idleComposer_keeps_port (s : State) : (idleComposer s).port = s.port := rfl
@[simp] theorem idleComposer_keeps_fairness (s : State) : (idleComposer s).fairness = s.fairness := rfl
@[simp] theorem idleComposer_keeps_setupClaim (s : State) : (idleComposer s).setupClaim = s.setupClaim := rfl
@[simp] theorem idleComposer_keeps_reportClaim (s : State) : (idleComposer s).reportClaim = s.reportClaim := rfl
@[simp] theorem idleComposer_keeps_composerClaim (s : State) : (idleComposer s).composerClaim = s.composerClaim := rfl
@[simp] theorem idleComposer_keeps_map (s : State) : (idleComposer s).map = s.map := rfl
@[simp] theorem idleComposer_keeps_keyboard (s : State) : (idleComposer s).keyboard = s.keyboard := rfl
@[simp] theorem idleComposer_keeps_holding (s : State) : (idleComposer s).holding = s.holding := rfl
@[simp] theorem idleComposer_keeps_scanner (s : State) : (idleComposer s).scanner = s.scanner := rfl
@[simp] theorem idleComposer_keeps_lineFormat (s : State) : (idleComposer s).lineFormat = s.lineFormat := rfl
@[simp] theorem idleComposer_keeps_pendingFormat (s : State) : (idleComposer s).pendingFormat = s.pendingFormat := rfl
@[simp] theorem idleComposer_keeps_slots (s : State) : (idleComposer s).slots = s.slots := rfl
@[simp] theorem idleComposer_keeps_collecting (s : State) : (idleComposer s).collecting = s.collecting := rfl
@[simp] theorem idleComposer_keeps_terminator (s : State) : (idleComposer s).terminator = s.terminator := rfl
@[simp] theorem idleComposer_keeps_record (s : State) : (idleComposer s).record = s.record := rfl
@[simp] theorem idleComposer_keeps_timer (s : State) : (idleComposer s).timer = s.timer := rfl
@[simp] theorem idleComposer_keeps_queue (s : State) : (idleComposer s).queue = s.queue := rfl
@[simp] theorem idleComposer_keeps_claimOrder (s : State) : (idleComposer s).claimOrder = s.claimOrder := rfl
@[simp] theorem idleComposer_keeps_lock (s : State) : (idleComposer s).lock = s.lock := rfl
@[simp] theorem idleComposer_keeps_tone (s : State) : (idleComposer s).tone = s.tone := rfl
@[simp] theorem idleComposer_keeps_report (s : State) : (idleComposer s).report = s.report := rfl
@[simp] theorem idleComposer_keeps_attn (s : State) : (idleComposer s).attn = s.attn := rfl
@[simp] theorem idleComposer_keeps_setup (s : State) : (idleComposer s).setup = s.setup := rfl
@[simp] theorem idleComposer_keeps_freeIndex (s : State) : (idleComposer s).freeIndex = s.freeIndex := rfl
@[simp] theorem idleComposer_keeps_pending (s : State) : (idleComposer s).pending = s.pending := rfl

/-! `postRange` changes composer and posting. -/

@[simp] theorem postRange_keeps_coldAsserted (r : HeldRange) (s : State) : (postRange r s).coldAsserted = s.coldAsserted := rfl
@[simp] theorem postRange_keeps_mem (r : HeldRange) (s : State) : (postRange r s).mem = s.mem := rfl
@[simp] theorem postRange_keeps_inHand (r : HeldRange) (s : State) : (postRange r s).inHand = s.inHand := rfl
@[simp] theorem postRange_keeps_answer (r : HeldRange) (s : State) : (postRange r s).answer = s.answer := rfl
@[simp] theorem postRange_keeps_heldRange (r : HeldRange) (s : State) : (postRange r s).heldRange = s.heldRange := rfl
@[simp] theorem postRange_keeps_port (r : HeldRange) (s : State) : (postRange r s).port = s.port := rfl
@[simp] theorem postRange_keeps_fairness (r : HeldRange) (s : State) : (postRange r s).fairness = s.fairness := rfl
@[simp] theorem postRange_keeps_setupClaim (r : HeldRange) (s : State) : (postRange r s).setupClaim = s.setupClaim := rfl
@[simp] theorem postRange_keeps_reportClaim (r : HeldRange) (s : State) : (postRange r s).reportClaim = s.reportClaim := rfl
@[simp] theorem postRange_keeps_composerClaim (r : HeldRange) (s : State) : (postRange r s).composerClaim = s.composerClaim := rfl
@[simp] theorem postRange_keeps_map (r : HeldRange) (s : State) : (postRange r s).map = s.map := rfl
@[simp] theorem postRange_keeps_keyboard (r : HeldRange) (s : State) : (postRange r s).keyboard = s.keyboard := rfl
@[simp] theorem postRange_keeps_holding (r : HeldRange) (s : State) : (postRange r s).holding = s.holding := rfl
@[simp] theorem postRange_keeps_scanner (r : HeldRange) (s : State) : (postRange r s).scanner = s.scanner := rfl
@[simp] theorem postRange_keeps_lineFormat (r : HeldRange) (s : State) : (postRange r s).lineFormat = s.lineFormat := rfl
@[simp] theorem postRange_keeps_pendingFormat (r : HeldRange) (s : State) : (postRange r s).pendingFormat = s.pendingFormat := rfl
@[simp] theorem postRange_keeps_slots (r : HeldRange) (s : State) : (postRange r s).slots = s.slots := rfl
@[simp] theorem postRange_keeps_collecting (r : HeldRange) (s : State) : (postRange r s).collecting = s.collecting := rfl
@[simp] theorem postRange_keeps_terminator (r : HeldRange) (s : State) : (postRange r s).terminator = s.terminator := rfl
@[simp] theorem postRange_keeps_record (r : HeldRange) (s : State) : (postRange r s).record = s.record := rfl
@[simp] theorem postRange_keeps_timer (r : HeldRange) (s : State) : (postRange r s).timer = s.timer := rfl
@[simp] theorem postRange_keeps_queue (r : HeldRange) (s : State) : (postRange r s).queue = s.queue := rfl
@[simp] theorem postRange_keeps_claimOrder (r : HeldRange) (s : State) : (postRange r s).claimOrder = s.claimOrder := rfl
@[simp] theorem postRange_keeps_lock (r : HeldRange) (s : State) : (postRange r s).lock = s.lock := rfl
@[simp] theorem postRange_keeps_tone (r : HeldRange) (s : State) : (postRange r s).tone = s.tone := rfl
@[simp] theorem postRange_keeps_report (r : HeldRange) (s : State) : (postRange r s).report = s.report := rfl
@[simp] theorem postRange_keeps_attn (r : HeldRange) (s : State) : (postRange r s).attn = s.attn := rfl
@[simp] theorem postRange_keeps_setup (r : HeldRange) (s : State) : (postRange r s).setup = s.setup := rfl
@[simp] theorem postRange_keeps_freeIndex (r : HeldRange) (s : State) : (postRange r s).freeIndex = s.freeIndex := rfl
@[simp] theorem postRange_keeps_pending (r : HeldRange) (s : State) : (postRange r s).pending = s.pending := rfl

/-! `markSlot` changes slots. -/

@[simp] theorem markSlot_keeps_coldAsserted (i : Fin 4) (x : SlotState) (s : State) : (markSlot i x s).coldAsserted = s.coldAsserted := rfl
@[simp] theorem markSlot_keeps_mem (i : Fin 4) (x : SlotState) (s : State) : (markSlot i x s).mem = s.mem := rfl
@[simp] theorem markSlot_keeps_inHand (i : Fin 4) (x : SlotState) (s : State) : (markSlot i x s).inHand = s.inHand := rfl
@[simp] theorem markSlot_keeps_answer (i : Fin 4) (x : SlotState) (s : State) : (markSlot i x s).answer = s.answer := rfl
@[simp] theorem markSlot_keeps_heldRange (i : Fin 4) (x : SlotState) (s : State) : (markSlot i x s).heldRange = s.heldRange := rfl
@[simp] theorem markSlot_keeps_posting (i : Fin 4) (x : SlotState) (s : State) : (markSlot i x s).posting = s.posting := rfl
@[simp] theorem markSlot_keeps_port (i : Fin 4) (x : SlotState) (s : State) : (markSlot i x s).port = s.port := rfl
@[simp] theorem markSlot_keeps_fairness (i : Fin 4) (x : SlotState) (s : State) : (markSlot i x s).fairness = s.fairness := rfl
@[simp] theorem markSlot_keeps_setupClaim (i : Fin 4) (x : SlotState) (s : State) : (markSlot i x s).setupClaim = s.setupClaim := rfl
@[simp] theorem markSlot_keeps_reportClaim (i : Fin 4) (x : SlotState) (s : State) : (markSlot i x s).reportClaim = s.reportClaim := rfl
@[simp] theorem markSlot_keeps_composerClaim (i : Fin 4) (x : SlotState) (s : State) : (markSlot i x s).composerClaim = s.composerClaim := rfl
@[simp] theorem markSlot_keeps_map (i : Fin 4) (x : SlotState) (s : State) : (markSlot i x s).map = s.map := rfl
@[simp] theorem markSlot_keeps_composer (i : Fin 4) (x : SlotState) (s : State) : (markSlot i x s).composer = s.composer := rfl
@[simp] theorem markSlot_keeps_keyboard (i : Fin 4) (x : SlotState) (s : State) : (markSlot i x s).keyboard = s.keyboard := rfl
@[simp] theorem markSlot_keeps_holding (i : Fin 4) (x : SlotState) (s : State) : (markSlot i x s).holding = s.holding := rfl
@[simp] theorem markSlot_keeps_scanner (i : Fin 4) (x : SlotState) (s : State) : (markSlot i x s).scanner = s.scanner := rfl
@[simp] theorem markSlot_keeps_lineFormat (i : Fin 4) (x : SlotState) (s : State) : (markSlot i x s).lineFormat = s.lineFormat := rfl
@[simp] theorem markSlot_keeps_pendingFormat (i : Fin 4) (x : SlotState) (s : State) : (markSlot i x s).pendingFormat = s.pendingFormat := rfl
@[simp] theorem markSlot_keeps_collecting (i : Fin 4) (x : SlotState) (s : State) : (markSlot i x s).collecting = s.collecting := rfl
@[simp] theorem markSlot_keeps_terminator (i : Fin 4) (x : SlotState) (s : State) : (markSlot i x s).terminator = s.terminator := rfl
@[simp] theorem markSlot_keeps_record (i : Fin 4) (x : SlotState) (s : State) : (markSlot i x s).record = s.record := rfl
@[simp] theorem markSlot_keeps_timer (i : Fin 4) (x : SlotState) (s : State) : (markSlot i x s).timer = s.timer := rfl
@[simp] theorem markSlot_keeps_queue (i : Fin 4) (x : SlotState) (s : State) : (markSlot i x s).queue = s.queue := rfl
@[simp] theorem markSlot_keeps_claimOrder (i : Fin 4) (x : SlotState) (s : State) : (markSlot i x s).claimOrder = s.claimOrder := rfl
@[simp] theorem markSlot_keeps_lock (i : Fin 4) (x : SlotState) (s : State) : (markSlot i x s).lock = s.lock := rfl
@[simp] theorem markSlot_keeps_tone (i : Fin 4) (x : SlotState) (s : State) : (markSlot i x s).tone = s.tone := rfl
@[simp] theorem markSlot_keeps_report (i : Fin 4) (x : SlotState) (s : State) : (markSlot i x s).report = s.report := rfl
@[simp] theorem markSlot_keeps_attn (i : Fin 4) (x : SlotState) (s : State) : (markSlot i x s).attn = s.attn := rfl
@[simp] theorem markSlot_keeps_setup (i : Fin 4) (x : SlotState) (s : State) : (markSlot i x s).setup = s.setup := rfl
@[simp] theorem markSlot_keeps_freeIndex (i : Fin 4) (x : SlotState) (s : State) : (markSlot i x s).freeIndex = s.freeIndex := rfl
@[simp] theorem markSlot_keeps_pending (i : Fin 4) (x : SlotState) (s : State) : (markSlot i x s).pending = s.pending := rfl

/-! `freeSlot` changes slots. -/

@[simp] theorem freeSlot_keeps_coldAsserted (i : Fin 4) (s : State) : (freeSlot i s).coldAsserted = s.coldAsserted := rfl
@[simp] theorem freeSlot_keeps_mem (i : Fin 4) (s : State) : (freeSlot i s).mem = s.mem := rfl
@[simp] theorem freeSlot_keeps_inHand (i : Fin 4) (s : State) : (freeSlot i s).inHand = s.inHand := rfl
@[simp] theorem freeSlot_keeps_answer (i : Fin 4) (s : State) : (freeSlot i s).answer = s.answer := rfl
@[simp] theorem freeSlot_keeps_heldRange (i : Fin 4) (s : State) : (freeSlot i s).heldRange = s.heldRange := rfl
@[simp] theorem freeSlot_keeps_posting (i : Fin 4) (s : State) : (freeSlot i s).posting = s.posting := rfl
@[simp] theorem freeSlot_keeps_port (i : Fin 4) (s : State) : (freeSlot i s).port = s.port := rfl
@[simp] theorem freeSlot_keeps_fairness (i : Fin 4) (s : State) : (freeSlot i s).fairness = s.fairness := rfl
@[simp] theorem freeSlot_keeps_setupClaim (i : Fin 4) (s : State) : (freeSlot i s).setupClaim = s.setupClaim := rfl
@[simp] theorem freeSlot_keeps_reportClaim (i : Fin 4) (s : State) : (freeSlot i s).reportClaim = s.reportClaim := rfl
@[simp] theorem freeSlot_keeps_composerClaim (i : Fin 4) (s : State) : (freeSlot i s).composerClaim = s.composerClaim := rfl
@[simp] theorem freeSlot_keeps_map (i : Fin 4) (s : State) : (freeSlot i s).map = s.map := rfl
@[simp] theorem freeSlot_keeps_composer (i : Fin 4) (s : State) : (freeSlot i s).composer = s.composer := rfl
@[simp] theorem freeSlot_keeps_keyboard (i : Fin 4) (s : State) : (freeSlot i s).keyboard = s.keyboard := rfl
@[simp] theorem freeSlot_keeps_holding (i : Fin 4) (s : State) : (freeSlot i s).holding = s.holding := rfl
@[simp] theorem freeSlot_keeps_scanner (i : Fin 4) (s : State) : (freeSlot i s).scanner = s.scanner := rfl
@[simp] theorem freeSlot_keeps_lineFormat (i : Fin 4) (s : State) : (freeSlot i s).lineFormat = s.lineFormat := rfl
@[simp] theorem freeSlot_keeps_pendingFormat (i : Fin 4) (s : State) : (freeSlot i s).pendingFormat = s.pendingFormat := rfl
@[simp] theorem freeSlot_keeps_collecting (i : Fin 4) (s : State) : (freeSlot i s).collecting = s.collecting := rfl
@[simp] theorem freeSlot_keeps_terminator (i : Fin 4) (s : State) : (freeSlot i s).terminator = s.terminator := rfl
@[simp] theorem freeSlot_keeps_record (i : Fin 4) (s : State) : (freeSlot i s).record = s.record := rfl
@[simp] theorem freeSlot_keeps_timer (i : Fin 4) (s : State) : (freeSlot i s).timer = s.timer := rfl
@[simp] theorem freeSlot_keeps_queue (i : Fin 4) (s : State) : (freeSlot i s).queue = s.queue := rfl
@[simp] theorem freeSlot_keeps_claimOrder (i : Fin 4) (s : State) : (freeSlot i s).claimOrder = s.claimOrder := rfl
@[simp] theorem freeSlot_keeps_lock (i : Fin 4) (s : State) : (freeSlot i s).lock = s.lock := rfl
@[simp] theorem freeSlot_keeps_tone (i : Fin 4) (s : State) : (freeSlot i s).tone = s.tone := rfl
@[simp] theorem freeSlot_keeps_report (i : Fin 4) (s : State) : (freeSlot i s).report = s.report := rfl
@[simp] theorem freeSlot_keeps_attn (i : Fin 4) (s : State) : (freeSlot i s).attn = s.attn := rfl
@[simp] theorem freeSlot_keeps_setup (i : Fin 4) (s : State) : (freeSlot i s).setup = s.setup := rfl
@[simp] theorem freeSlot_keeps_freeIndex (i : Fin 4) (s : State) : (freeSlot i s).freeIndex = s.freeIndex := rfl
@[simp] theorem freeSlot_keeps_pending (i : Fin 4) (s : State) : (freeSlot i s).pending = s.pending := rfl

/-! `enterLimit` changes map and report and attn. -/

@[simp] theorem enterLimit_keeps_coldAsserted (s : State) : (enterLimit s).coldAsserted = s.coldAsserted := rfl
@[simp] theorem enterLimit_keeps_mem (s : State) : (enterLimit s).mem = s.mem := rfl
@[simp] theorem enterLimit_keeps_inHand (s : State) : (enterLimit s).inHand = s.inHand := rfl
@[simp] theorem enterLimit_keeps_answer (s : State) : (enterLimit s).answer = s.answer := rfl
@[simp] theorem enterLimit_keeps_heldRange (s : State) : (enterLimit s).heldRange = s.heldRange := rfl
@[simp] theorem enterLimit_keeps_posting (s : State) : (enterLimit s).posting = s.posting := rfl
@[simp] theorem enterLimit_keeps_port (s : State) : (enterLimit s).port = s.port := rfl
@[simp] theorem enterLimit_keeps_fairness (s : State) : (enterLimit s).fairness = s.fairness := rfl
@[simp] theorem enterLimit_keeps_setupClaim (s : State) : (enterLimit s).setupClaim = s.setupClaim := rfl
@[simp] theorem enterLimit_keeps_reportClaim (s : State) : (enterLimit s).reportClaim = s.reportClaim := rfl
@[simp] theorem enterLimit_keeps_composerClaim (s : State) : (enterLimit s).composerClaim = s.composerClaim := rfl
@[simp] theorem enterLimit_keeps_composer (s : State) : (enterLimit s).composer = s.composer := rfl
@[simp] theorem enterLimit_keeps_keyboard (s : State) : (enterLimit s).keyboard = s.keyboard := rfl
@[simp] theorem enterLimit_keeps_holding (s : State) : (enterLimit s).holding = s.holding := rfl
@[simp] theorem enterLimit_keeps_scanner (s : State) : (enterLimit s).scanner = s.scanner := rfl
@[simp] theorem enterLimit_keeps_lineFormat (s : State) : (enterLimit s).lineFormat = s.lineFormat := rfl
@[simp] theorem enterLimit_keeps_pendingFormat (s : State) : (enterLimit s).pendingFormat = s.pendingFormat := rfl
@[simp] theorem enterLimit_keeps_slots (s : State) : (enterLimit s).slots = s.slots := rfl
@[simp] theorem enterLimit_keeps_collecting (s : State) : (enterLimit s).collecting = s.collecting := rfl
@[simp] theorem enterLimit_keeps_terminator (s : State) : (enterLimit s).terminator = s.terminator := rfl
@[simp] theorem enterLimit_keeps_record (s : State) : (enterLimit s).record = s.record := rfl
@[simp] theorem enterLimit_keeps_timer (s : State) : (enterLimit s).timer = s.timer := rfl
@[simp] theorem enterLimit_keeps_queue (s : State) : (enterLimit s).queue = s.queue := rfl
@[simp] theorem enterLimit_keeps_claimOrder (s : State) : (enterLimit s).claimOrder = s.claimOrder := rfl
@[simp] theorem enterLimit_keeps_lock (s : State) : (enterLimit s).lock = s.lock := rfl
@[simp] theorem enterLimit_keeps_tone (s : State) : (enterLimit s).tone = s.tone := rfl
@[simp] theorem enterLimit_keeps_setup (s : State) : (enterLimit s).setup = s.setup := rfl
@[simp] theorem enterLimit_keeps_freeIndex (s : State) : (enterLimit s).freeIndex = s.freeIndex := rfl
@[simp] theorem enterLimit_keeps_pending (s : State) : (enterLimit s).pending = s.pending := rfl

/-! `setTodo` changes composer. -/

@[simp] theorem setTodo_keeps_coldAsserted (o : List Op) (s : State) : (setTodo o s).coldAsserted = s.coldAsserted := rfl
@[simp] theorem setTodo_keeps_mem (o : List Op) (s : State) : (setTodo o s).mem = s.mem := rfl
@[simp] theorem setTodo_keeps_inHand (o : List Op) (s : State) : (setTodo o s).inHand = s.inHand := rfl
@[simp] theorem setTodo_keeps_answer (o : List Op) (s : State) : (setTodo o s).answer = s.answer := rfl
@[simp] theorem setTodo_keeps_heldRange (o : List Op) (s : State) : (setTodo o s).heldRange = s.heldRange := rfl
@[simp] theorem setTodo_keeps_posting (o : List Op) (s : State) : (setTodo o s).posting = s.posting := rfl
@[simp] theorem setTodo_keeps_port (o : List Op) (s : State) : (setTodo o s).port = s.port := rfl
@[simp] theorem setTodo_keeps_fairness (o : List Op) (s : State) : (setTodo o s).fairness = s.fairness := rfl
@[simp] theorem setTodo_keeps_setupClaim (o : List Op) (s : State) : (setTodo o s).setupClaim = s.setupClaim := rfl
@[simp] theorem setTodo_keeps_reportClaim (o : List Op) (s : State) : (setTodo o s).reportClaim = s.reportClaim := rfl
@[simp] theorem setTodo_keeps_composerClaim (o : List Op) (s : State) : (setTodo o s).composerClaim = s.composerClaim := rfl
@[simp] theorem setTodo_keeps_map (o : List Op) (s : State) : (setTodo o s).map = s.map := rfl
@[simp] theorem setTodo_keeps_keyboard (o : List Op) (s : State) : (setTodo o s).keyboard = s.keyboard := rfl
@[simp] theorem setTodo_keeps_holding (o : List Op) (s : State) : (setTodo o s).holding = s.holding := rfl
@[simp] theorem setTodo_keeps_scanner (o : List Op) (s : State) : (setTodo o s).scanner = s.scanner := rfl
@[simp] theorem setTodo_keeps_lineFormat (o : List Op) (s : State) : (setTodo o s).lineFormat = s.lineFormat := rfl
@[simp] theorem setTodo_keeps_pendingFormat (o : List Op) (s : State) : (setTodo o s).pendingFormat = s.pendingFormat := rfl
@[simp] theorem setTodo_keeps_slots (o : List Op) (s : State) : (setTodo o s).slots = s.slots := rfl
@[simp] theorem setTodo_keeps_collecting (o : List Op) (s : State) : (setTodo o s).collecting = s.collecting := rfl
@[simp] theorem setTodo_keeps_terminator (o : List Op) (s : State) : (setTodo o s).terminator = s.terminator := rfl
@[simp] theorem setTodo_keeps_record (o : List Op) (s : State) : (setTodo o s).record = s.record := rfl
@[simp] theorem setTodo_keeps_timer (o : List Op) (s : State) : (setTodo o s).timer = s.timer := rfl
@[simp] theorem setTodo_keeps_queue (o : List Op) (s : State) : (setTodo o s).queue = s.queue := rfl
@[simp] theorem setTodo_keeps_claimOrder (o : List Op) (s : State) : (setTodo o s).claimOrder = s.claimOrder := rfl
@[simp] theorem setTodo_keeps_lock (o : List Op) (s : State) : (setTodo o s).lock = s.lock := rfl
@[simp] theorem setTodo_keeps_tone (o : List Op) (s : State) : (setTodo o s).tone = s.tone := rfl
@[simp] theorem setTodo_keeps_report (o : List Op) (s : State) : (setTodo o s).report = s.report := rfl
@[simp] theorem setTodo_keeps_attn (o : List Op) (s : State) : (setTodo o s).attn = s.attn := rfl
@[simp] theorem setTodo_keeps_setup (o : List Op) (s : State) : (setTodo o s).setup = s.setup := rfl
@[simp] theorem setTodo_keeps_freeIndex (o : List Op) (s : State) : (setTodo o s).freeIndex = s.freeIndex := rfl
@[simp] theorem setTodo_keeps_pending (o : List Op) (s : State) : (setTodo o s).pending = s.pending := rfl

/-! `setCursor` changes composer. -/

@[simp] theorem setCursor_keeps_coldAsserted (x : Nat) (s : State) : (setCursor x s).coldAsserted = s.coldAsserted := rfl
@[simp] theorem setCursor_keeps_mem (x : Nat) (s : State) : (setCursor x s).mem = s.mem := rfl
@[simp] theorem setCursor_keeps_inHand (x : Nat) (s : State) : (setCursor x s).inHand = s.inHand := rfl
@[simp] theorem setCursor_keeps_answer (x : Nat) (s : State) : (setCursor x s).answer = s.answer := rfl
@[simp] theorem setCursor_keeps_heldRange (x : Nat) (s : State) : (setCursor x s).heldRange = s.heldRange := rfl
@[simp] theorem setCursor_keeps_posting (x : Nat) (s : State) : (setCursor x s).posting = s.posting := rfl
@[simp] theorem setCursor_keeps_port (x : Nat) (s : State) : (setCursor x s).port = s.port := rfl
@[simp] theorem setCursor_keeps_fairness (x : Nat) (s : State) : (setCursor x s).fairness = s.fairness := rfl
@[simp] theorem setCursor_keeps_setupClaim (x : Nat) (s : State) : (setCursor x s).setupClaim = s.setupClaim := rfl
@[simp] theorem setCursor_keeps_reportClaim (x : Nat) (s : State) : (setCursor x s).reportClaim = s.reportClaim := rfl
@[simp] theorem setCursor_keeps_composerClaim (x : Nat) (s : State) : (setCursor x s).composerClaim = s.composerClaim := rfl
@[simp] theorem setCursor_keeps_map (x : Nat) (s : State) : (setCursor x s).map = s.map := rfl
@[simp] theorem setCursor_keeps_keyboard (x : Nat) (s : State) : (setCursor x s).keyboard = s.keyboard := rfl
@[simp] theorem setCursor_keeps_holding (x : Nat) (s : State) : (setCursor x s).holding = s.holding := rfl
@[simp] theorem setCursor_keeps_scanner (x : Nat) (s : State) : (setCursor x s).scanner = s.scanner := rfl
@[simp] theorem setCursor_keeps_lineFormat (x : Nat) (s : State) : (setCursor x s).lineFormat = s.lineFormat := rfl
@[simp] theorem setCursor_keeps_pendingFormat (x : Nat) (s : State) : (setCursor x s).pendingFormat = s.pendingFormat := rfl
@[simp] theorem setCursor_keeps_slots (x : Nat) (s : State) : (setCursor x s).slots = s.slots := rfl
@[simp] theorem setCursor_keeps_collecting (x : Nat) (s : State) : (setCursor x s).collecting = s.collecting := rfl
@[simp] theorem setCursor_keeps_terminator (x : Nat) (s : State) : (setCursor x s).terminator = s.terminator := rfl
@[simp] theorem setCursor_keeps_record (x : Nat) (s : State) : (setCursor x s).record = s.record := rfl
@[simp] theorem setCursor_keeps_timer (x : Nat) (s : State) : (setCursor x s).timer = s.timer := rfl
@[simp] theorem setCursor_keeps_queue (x : Nat) (s : State) : (setCursor x s).queue = s.queue := rfl
@[simp] theorem setCursor_keeps_claimOrder (x : Nat) (s : State) : (setCursor x s).claimOrder = s.claimOrder := rfl
@[simp] theorem setCursor_keeps_lock (x : Nat) (s : State) : (setCursor x s).lock = s.lock := rfl
@[simp] theorem setCursor_keeps_tone (x : Nat) (s : State) : (setCursor x s).tone = s.tone := rfl
@[simp] theorem setCursor_keeps_report (x : Nat) (s : State) : (setCursor x s).report = s.report := rfl
@[simp] theorem setCursor_keeps_attn (x : Nat) (s : State) : (setCursor x s).attn = s.attn := rfl
@[simp] theorem setCursor_keeps_setup (x : Nat) (s : State) : (setCursor x s).setup = s.setup := rfl
@[simp] theorem setCursor_keeps_freeIndex (x : Nat) (s : State) : (setCursor x s).freeIndex = s.freeIndex := rfl
@[simp] theorem setCursor_keeps_pending (x : Nat) (s : State) : (setCursor x s).pending = s.pending := rfl

/-! `claimComposer` changes composerClaim. -/

@[simp] theorem claimComposer_keeps_coldAsserted (a : WordAddr) (o : MemOp) (s : State) : (claimComposer a o s).coldAsserted = s.coldAsserted := rfl
@[simp] theorem claimComposer_keeps_mem (a : WordAddr) (o : MemOp) (s : State) : (claimComposer a o s).mem = s.mem := rfl
@[simp] theorem claimComposer_keeps_inHand (a : WordAddr) (o : MemOp) (s : State) : (claimComposer a o s).inHand = s.inHand := rfl
@[simp] theorem claimComposer_keeps_answer (a : WordAddr) (o : MemOp) (s : State) : (claimComposer a o s).answer = s.answer := rfl
@[simp] theorem claimComposer_keeps_heldRange (a : WordAddr) (o : MemOp) (s : State) : (claimComposer a o s).heldRange = s.heldRange := rfl
@[simp] theorem claimComposer_keeps_posting (a : WordAddr) (o : MemOp) (s : State) : (claimComposer a o s).posting = s.posting := rfl
@[simp] theorem claimComposer_keeps_port (a : WordAddr) (o : MemOp) (s : State) : (claimComposer a o s).port = s.port := rfl
@[simp] theorem claimComposer_keeps_fairness (a : WordAddr) (o : MemOp) (s : State) : (claimComposer a o s).fairness = s.fairness := rfl
@[simp] theorem claimComposer_keeps_setupClaim (a : WordAddr) (o : MemOp) (s : State) : (claimComposer a o s).setupClaim = s.setupClaim := rfl
@[simp] theorem claimComposer_keeps_reportClaim (a : WordAddr) (o : MemOp) (s : State) : (claimComposer a o s).reportClaim = s.reportClaim := rfl
@[simp] theorem claimComposer_keeps_map (a : WordAddr) (o : MemOp) (s : State) : (claimComposer a o s).map = s.map := rfl
@[simp] theorem claimComposer_keeps_composer (a : WordAddr) (o : MemOp) (s : State) : (claimComposer a o s).composer = s.composer := rfl
@[simp] theorem claimComposer_keeps_keyboard (a : WordAddr) (o : MemOp) (s : State) : (claimComposer a o s).keyboard = s.keyboard := rfl
@[simp] theorem claimComposer_keeps_holding (a : WordAddr) (o : MemOp) (s : State) : (claimComposer a o s).holding = s.holding := rfl
@[simp] theorem claimComposer_keeps_scanner (a : WordAddr) (o : MemOp) (s : State) : (claimComposer a o s).scanner = s.scanner := rfl
@[simp] theorem claimComposer_keeps_lineFormat (a : WordAddr) (o : MemOp) (s : State) : (claimComposer a o s).lineFormat = s.lineFormat := rfl
@[simp] theorem claimComposer_keeps_pendingFormat (a : WordAddr) (o : MemOp) (s : State) : (claimComposer a o s).pendingFormat = s.pendingFormat := rfl
@[simp] theorem claimComposer_keeps_slots (a : WordAddr) (o : MemOp) (s : State) : (claimComposer a o s).slots = s.slots := rfl
@[simp] theorem claimComposer_keeps_collecting (a : WordAddr) (o : MemOp) (s : State) : (claimComposer a o s).collecting = s.collecting := rfl
@[simp] theorem claimComposer_keeps_terminator (a : WordAddr) (o : MemOp) (s : State) : (claimComposer a o s).terminator = s.terminator := rfl
@[simp] theorem claimComposer_keeps_record (a : WordAddr) (o : MemOp) (s : State) : (claimComposer a o s).record = s.record := rfl
@[simp] theorem claimComposer_keeps_timer (a : WordAddr) (o : MemOp) (s : State) : (claimComposer a o s).timer = s.timer := rfl
@[simp] theorem claimComposer_keeps_queue (a : WordAddr) (o : MemOp) (s : State) : (claimComposer a o s).queue = s.queue := rfl
@[simp] theorem claimComposer_keeps_claimOrder (a : WordAddr) (o : MemOp) (s : State) : (claimComposer a o s).claimOrder = s.claimOrder := rfl
@[simp] theorem claimComposer_keeps_lock (a : WordAddr) (o : MemOp) (s : State) : (claimComposer a o s).lock = s.lock := rfl
@[simp] theorem claimComposer_keeps_tone (a : WordAddr) (o : MemOp) (s : State) : (claimComposer a o s).tone = s.tone := rfl
@[simp] theorem claimComposer_keeps_report (a : WordAddr) (o : MemOp) (s : State) : (claimComposer a o s).report = s.report := rfl
@[simp] theorem claimComposer_keeps_attn (a : WordAddr) (o : MemOp) (s : State) : (claimComposer a o s).attn = s.attn := rfl
@[simp] theorem claimComposer_keeps_setup (a : WordAddr) (o : MemOp) (s : State) : (claimComposer a o s).setup = s.setup := rfl
@[simp] theorem claimComposer_keeps_freeIndex (a : WordAddr) (o : MemOp) (s : State) : (claimComposer a o s).freeIndex = s.freeIndex := rfl
@[simp] theorem claimComposer_keeps_pending (a : WordAddr) (o : MemOp) (s : State) : (claimComposer a o s).pending = s.pending := rfl

/-! What each update writes. -/

@[simp] theorem driveAttn_attn (s : State) : (driveAttn s).attn = attnLevel s := rfl
@[simp] theorem toneTrigger_tone (s : State) : (toneTrigger s).tone = true := rfl
@[simp] theorem setTodo_todo (o : List Op) (s : State) : (setTodo o s).composer.todo = o := rfl
@[simp] theorem setCursor_cursor (x : Nat) (s : State) : (setCursor x s).composer.cursor = x % s.formN := rfl
@[simp] theorem idleComposer_engine (s : State) : (idleComposer s).composer.engine = .idle := rfl
@[simp] theorem idleComposer_work (s : State) : (idleComposer s).composer.work = .none := rfl
@[simp] theorem idleComposer_todo (s : State) : (idleComposer s).composer.todo = [] := rfl
@[simp] theorem idleComposer_cursor (s : State) : (idleComposer s).composer.cursor = s.composer.cursor := rfl
@[simp] theorem postRange_posting (r : HeldRange) (s : State) : (postRange r s).posting = some r := rfl
@[simp] theorem enterLimit_state (s : State) : (enterLimit s).map.state = .limit := rfl
@[simp] theorem enterLimit_table (s : State) : (enterLimit s).map.table = [] := rfl
@[simp] theorem offer_pending (c : Cause) (s : State) :
    (offer c s).report.pending = s.report.pending ||| causeBit c := rfl
@[simp] theorem offer_seen (c : Cause) (s : State) :
    (offer c s).report.seen = s.report.seen &&& ~~~causeBit c := rfl
@[simp] theorem offer_counters (c : Cause) (s : State) : (offer c s).report.counters = s.report.counters := rfl
@[simp] theorem offer_intake (c : Cause) (s : State) : (offer c s).report.intake = s.report.intake := rfl
@[simp] theorem count_counters (k : Counter) (s : State) :
    (count k s).report.counters = setCounter s.report.counters k (countUp (counterOf s.report.counters k)) := rfl
@[simp] theorem count_pending (k : Counter) (s : State) : (count k s).report.pending = s.report.pending := rfl
@[simp] theorem count_intake (k : Counter) (s : State) : (count k s).report.intake = s.report.intake := rfl

end Sys2Proof.Machine
end

