-- ==== Sys2Proof/Laws/Frame.lean ====
section
/-! SUPPORT. What the composer's operations can change: everything else is one projection of State, `outside`,
which each of them leaves as it was. -/

namespace Sys2Proof.Machine

/-- The part of the state the composer's own operations do not change: memory, the port, the lines, the queue,
the setup, the map's table and state, and the rest, with what they may change set to fixed values. -/
def outside (s : State) : State :=
  { s with
    composer := Composer.cold, heldRange := .empty, posting := none, inHand := none, answer := none,
    report := ReportUnit.cold, attn := false, slots := State.reset.slots, lock := .opened, tone := false,
    timer.toneCompare := none, map.modified := false, composerClaim := none }

@[simp] theorem outside_offer (c : Cause) (s : State) : outside (offer c s) = outside s := rfl
@[simp] theorem outside_count (k : Counter) (s : State) : outside (count k s) = outside s := rfl
@[simp] theorem outside_toneTrigger (s : State) : outside (toneTrigger s) = outside s := rfl
@[simp] theorem outside_freeSlot (i : Fin 4) (s : State) : outside (freeSlot i s) = outside s := rfl
@[simp] theorem outside_idleComposer (s : State) : outside (idleComposer s) = outside s := rfl
@[simp] theorem outside_postRange (r : HeldRange) (s : State) : outside (postRange r s) = outside s := rfl
@[simp] theorem outside_setTodo (o : List Op) (s : State) : outside (setTodo o s) = outside s := rfl
@[simp] theorem outside_pushTodo (o : List Op) (s : State) : outside (pushTodo o s) = outside s := rfl
@[simp] theorem outside_clearBuffer (s : State) : outside (clearBuffer s) = outside s := rfl
@[simp] theorem outside_setCursor (x : Nat) (s : State) : outside (setCursor x s) = outside s := rfl
@[simp] theorem outside_insertOff (s : State) : outside (insertOff s) = outside s := rfl
@[simp] theorem outside_claimComposer (a : WordAddr) (o : MemOp) (s : State) :
    outside (claimComposer a o s) = outside s := rfl
@[simp] theorem outside_raiseError (c : ErrorCode) (s : State) : outside (raiseError c s) = outside s := by
  unfold raiseError; split <;> rfl
@[simp] theorem outside_sendLock (s : State) : outside (sendLock s) = outside s := by
  unfold sendLock; split <;> rfl
@[simp] theorem outside_unlockKeyboard (s : State) : outside (unlockKeyboard s) = outside s := by
  unfold unlockKeyboard; split <;> rfl
@[simp] theorem outside_lockKeyboard (s : State) : outside (lockKeyboard s) = outside s := by
  unfold lockKeyboard; split <;> rfl
@[simp] theorem outside_freeTokenSlot (t : Token) (s : State) : outside (freeTokenSlot t s) = outside s := by
  unfold freeTokenSlot; split <;> rfl
@[simp] theorem outside_reportReadEffect (i : Fin 32) (s : State) : outside (reportReadEffect i s) = outside s := by
  unfold reportReadEffect; repeat' split
  all_goals rfl
@[simp] theorem outside_completeDirective (c : Completion) (s : State) :
    outside (completeDirective c s) = outside s := by
  unfold completeDirective; repeat' split
  all_goals rfl
@[simp] theorem outside_carryDecision (t : Transfer) (d : Decision) (s : State) :
    outside (carryDecision t d s) = outside s := by
  unfold carryDecision; split
  all_goals first | rfl | (rw [outside_reportReadEffect]; rfl)
@[simp] theorem outside_takeIn (t : Transfer) (s : State) : outside (takeIn t s) = outside s := by simp [takeIn]
@[simp] theorem outside_decideAnew (s : State) : outside (decideAnew s) = outside s := by
  unfold decideAnew; repeat' split
  all_goals simp
@[simp] theorem outside_decideHeld (s : State) : outside (decideHeld s) = outside s := by
  unfold decideHeld; repeat' split
  all_goals simp
@[simp] theorem outside_takePosting (r : HeldRange) (s : State) : outside (takePosting r s) = outside s := by
  unfold takePosting; rw [outside_decideAnew]; rfl
@[simp] theorem outside_releaseRange (s : State) : outside (releaseRange s) = outside s := by
  unfold releaseRange; repeat' split
  · rfl
  · simp
  · rw [outside_takePosting]; rfl
@[simp] theorem outside_endWork (s : State) : outside (endWork s) = outside s := by
  unfold endWork; simp only [outside_idleComposer, outside_releaseRange]; split <;> simp
@[simp] theorem outside_refuse (c : ErrorCode) (s : State) : outside (refuse c s) = outside s := by simp [refuse]
@[simp] theorem outside_finishDirective (c : Completion) (s : State) : outside (finishDirective c s) = outside s := by
  simp [finishDirective]
@[simp] theorem outside_takeHold (s : State) : outside (takeHold s) = outside s := by
  unfold takeHold; split <;> simp
@[simp] theorem outside_startExit (k : Option Nat) (m : Bool) (n : ExitNext) (s : State) :
    outside (startExit k m n s) = outside s := by simp [startExit]
@[simp] theorem outside_exitComputed (k : Option Nat) (m : Bool) (n : ExitNext) (s : State) :
    outside (exitComputed k m n s) = outside s := by
  simp only [exitComputed]; split <;> simp
@[simp] theorem outside_holdForGather (s : State) : outside (holdForGather s) = outside s := by
  unfold holdForGather; repeat' split
  all_goals rfl
@[simp] theorem outside_openList (s : State) : outside (openList s) = outside s := by
  unfold openList; rw [outside_setTodo, outside_holdForGather]; rfl
@[simp] theorem outside_closingWrites (l : ListState) (s : State) : outside (closingWrites l s) = outside s := by
  simp [closingWrites]
@[simp] theorem outside_closeList (l : ListState) (s : State) : outside (closeList l s) = outside s := by
  unfold closeList; rw [outside_closingWrites]; rfl
@[simp] theorem outside_abortList (s : State) : outside (abortList s) = outside s := by
  unfold abortList; rw [outside_closingWrites]; rfl
@[simp] theorem outside_finishSend (s : State) : outside (finishSend s) = outside s := by
  unfold finishSend; rw [outside_endWork]; split <;> simp
@[simp] theorem outside_lockAndList (s : State) : outside (lockAndList s) = outside s := by
  simp only [lockAndList]; split <;> simp
@[simp] theorem outside_listDone (l : ListState) (s : State) : outside (listDone l s) = outside s := by
  simp only [listDone]; split
  all_goals first | (simp; done) | (simp; rfl)
@[simp] theorem outside_walkLimit (w : Walk) (s : State) : outside (walkLimit w s) = outside s := by
  unfold walkLimit; split <;> simp
@[simp] theorem outside_walkEnd (w : Walk) (s : State) : outside (walkEnd w s) = outside s := by
  unfold walkEnd; split <;> simp
@[simp] theorem outside_selectStep (w : Walk) (s : State) : outside (selectStep w s) = outside s := by
  unfold selectStep; split <;> simp
@[simp] theorem outside_startWalk (w : Walk) (s : State) : outside (startWalk w s) = outside s := by
  unfold startWalk; rw [outside_selectStep]; rfl
@[simp] theorem outside_nextStep (w : Walk) (s : State) : outside (nextStep w s) = outside s := by
  unfold nextStep; split
  · simp
  · rw [outside_selectStep]; rfl
@[simp] theorem outside_validateField (s : State) : outside (validateField s) = outside s := by
  simp only [validateField]; repeat' split
  all_goals simp
@[simp] theorem outside_validationJudged (s : State) : outside (validationJudged s) = outside s := by
  simp only [validationJudged]; repeat' split
  all_goals simp
@[simp] theorem outside_gatherJudged (s : State) : outside (gatherJudged s) = outside s := by
  simp only [gatherJudged]; split <;> simp
@[simp] theorem outside_gatherField (s : State) : outside (gatherField s) = outside s := by
  unfold gatherField; split <;> simp
@[simp] theorem outside_countEntry (n : Nat) (s : State) : outside (countEntry n s) = outside s := rfl
@[simp] theorem outside_madeStep (w : Walk) (f : Field) (s : State) : outside (madeStep w f s) = outside s := by
  simp only [madeStep]; split
  · rw [outside_validateField]; rfl
  · rw [outside_gatherField]; rfl
@[simp] theorem outside_stepTaken (w : Walk) (m : Option Nat) (l : Nat) (s : State) :
    outside (stepTaken w m l s) = outside s := by
  unfold stepTaken; repeat' split
  all_goals simp
@[simp] theorem outside_stepUnderWhole (w : Walk) (s : State) : outside (stepUnderWhole w s) = outside s := by
  unfold stepUnderWhole; split
  · simp
  · simp
  · rw [outside_setTodo]; rfl
@[simp] theorem outside_startErase (s : State) : outside (startErase s) = outside s := by simp [startErase]
@[simp] theorem outside_eraseRefused (s : State) : outside (erasePass.eraseRefused s) = outside s := by
  unfold erasePass.eraseRefused; split <;> simp
@[simp] theorem outside_erasePass (s : State) : outside (erasePass s) = outside s := by
  unfold erasePass; split
  · simp only [outside_setTodo]; rfl
  all_goals simp
@[simp] theorem outside_eraseEnded (s : State) : outside (eraseEnded s) = outside s := by
  simp only [eraseEnded]; repeat' split
  all_goals first | (simp; done) | (simp; rfl)
@[simp] theorem outside_passEnded (s : State) : outside (passEnded s) = outside s := by
  unfold passEnded; split <;> simp
@[simp] theorem outside_cellStep (s : State) : outside (cellStep s) = outside s := by
  unfold cellStep; split <;> simp
@[simp] theorem outside_startClearPass (s : State) : outside (startClearPass s) = outside s := by
  simp only [startClearPass]; split
  · rw [outside_passEnded]; rfl
  · rw [outside_cellStep]; rfl
@[simp] theorem outside_cellHeld (p : Nat) (s : State) : outside (cellHeld p s) = outside s := by
  unfold cellHeld; repeat' split
  all_goals first | (simp; done) | (rw [outside_cellStep]; rfl)
@[simp] theorem outside_heldCharacter (c : Byte) (s : State) : outside (heldCharacter c s) = outside s := by
  simp only [heldCharacter]; repeat' split
  all_goals simp
@[simp] theorem outside_insertJudged (c : Byte) (s : State) : outside (insertJudged c s) = outside s := by
  simp only [insertJudged]; split <;> simp
@[simp] theorem outside_markModified (s : State) : outside (markModified s) = outside s := by
  unfold markModified; repeat' split
  all_goals first | (simp; done) | rfl
@[simp] theorem outside_characterDone (s : State) : outside (characterDone s) = outside s := by
  simp only [characterDone]; split <;> simp
@[simp] theorem outside_heldDelete (s : State) : outside (heldDelete s) = outside s := by
  simp only [heldDelete]; split <;> simp
@[simp] theorem outside_heldErase (s : State) : outside (heldErase s) = outside s := by
  simp only [heldErase]; split <;> simp
@[simp] theorem outside_heldFieldExit (s : State) : outside (heldFieldExit s) = outside s := by
  simp only [heldFieldExit]; split <;> simp
@[simp] theorem outside_heldFieldMinus (s : State) : outside (heldFieldMinus s) = outside s := by
  simp only [heldFieldMinus]; repeat' split
  all_goals simp
@[simp] theorem outside_heldMove (c : Byte) (s : State) : outside (heldMove c s) = outside s := by
  simp only [heldMove]; split <;> simp
@[simp] theorem outside_heldSend (s : State) : outside (heldSend s) = outside s := by
  unfold heldSend; split <;> simp
@[simp] theorem outside_rejectScan (s : State) : outside (rejectScan s) = outside s := by simp [rejectScan]
@[simp] theorem outside_heldScan (i : Fin 4) (s : State) : outside (heldScan i s) = outside s := by
  simp only [heldScan]; repeat' split
  all_goals simp
@[simp] theorem outside_scanComputed (s : State) : outside (scanComputed s) = outside s := by
  simp only [scanComputed]; split <;> simp
@[simp] theorem outside_heldWork (s : State) : outside (heldWork s) = outside s := by
  unfold heldWork; repeat' split
  all_goals simp
@[simp] theorem outside_holdMade (f : Field) (s : State) : outside (holdMade f s) = outside s := by
  unfold holdMade; rw [outside_heldWork]; rfl
@[simp] theorem outside_holdTaken (m : Option Nat) (l : Nat) (w : Bool) (s : State) :
    outside (holdTaken m l w s) = outside s := by
  unfold holdTaken; repeat' split
  all_goals first | (simp; done) | (rw [outside_setTodo]; rfl)
@[simp] theorem outside_holdUnderWhole (s : State) : outside (holdUnderWhole s) = outside s := by
  unfold holdUnderWhole; split
  · simp
  · rw [outside_setTodo]; rfl
@[simp] theorem outside_exitSucceeded (n : ExitNext) (s : State) : outside (exitSucceeded n s) = outside s := by
  unfold exitSucceeded; split <;> simp
@[simp] theorem outside_listOpened (s : State) : outside (listOpened s) = outside s := by
  unfold listOpened; repeat' split
  · simp
  · simp
  · rw [outside_startWalk]; rfl

/-- A continuation leaves everything but the composer's own things as it was. -/
@[simp] theorem outside_runCont (k : Cont) (s : State) : outside (runCont k s) = outside s := by
  unfold runCont; split
  all_goals first | (simp; done) | (simp; rfl)

@[simp] theorem outside_beginOp (u : SetupBlock) (op : Op) (s : State) : outside (beginOp u op s) = outside s := by
  unfold beginOp; split <;> simp

theorem outside_carryOn (n : Nat) (s : State) : outside (carryOn n s) = outside s := by
  induction n generalizing s with
  | zero => rfl
  | succ n ih =>
    unfold carryOn; repeat' split
    · rfl
    · rw [ih]; simp
    · simp
    · rfl

/-- The composer's going on leaves memory, the port, the queue, the lines and the setup as they were. -/
@[simp] theorem outside_resume (s : State) : outside (resume s) = outside s := outside_carryOn _ _

/-! ### The fields, from the projection -/

theorem mem_of_outside {s t : State} (h : outside t = outside s) : t.mem = s.mem := by have e := congrArg State.mem h; exact e
theorem port_of_outside {s t : State} (h : outside t = outside s) : t.port = s.port := by have e := congrArg State.port h; exact e
theorem queue_of_outside {s t : State} (h : outside t = outside s) : t.queue = s.queue := by have e := congrArg State.queue h; exact e
theorem claimOrder_of_outside {s t : State} (h : outside t = outside s) : t.claimOrder = s.claimOrder :=
  by have e := congrArg State.claimOrder h; exact e
theorem fairness_of_outside {s t : State} (h : outside t = outside s) : t.fairness = s.fairness :=
  by have e := congrArg State.fairness h; exact e
theorem setup_of_outside {s t : State} (h : outside t = outside s) : t.setup = s.setup := by have e := congrArg State.setup h; exact e
theorem pending_of_outside {s t : State} (h : outside t = outside s) : t.pending = s.pending :=
  by have e := congrArg State.pending h; exact e
theorem holding_of_outside {s t : State} (h : outside t = outside s) : t.holding = s.holding :=
  by have e := congrArg State.holding h; exact e
theorem mapState_of_outside {s t : State} (h : outside t = outside s) : t.map.state = s.map.state :=
  congrArg (fun x => x.map.state) h
theorem mapTable_of_outside {s t : State} (h : outside t = outside s) : t.map.table = s.map.table :=
  congrArg (fun x => x.map.table) h

@[simp] theorem resume_mem (s : State) : (resume s).mem = s.mem := mem_of_outside (outside_resume s)
@[simp] theorem resume_port (s : State) : (resume s).port = s.port := port_of_outside (outside_resume s)
@[simp] theorem resume_queue (s : State) : (resume s).queue = s.queue := queue_of_outside (outside_resume s)
@[simp] theorem resume_claimOrder (s : State) : (resume s).claimOrder = s.claimOrder :=
  claimOrder_of_outside (outside_resume s)
@[simp] theorem resume_setup (s : State) : (resume s).setup = s.setup := setup_of_outside (outside_resume s)
@[simp] theorem resume_pending (s : State) : (resume s).pending = s.pending := pending_of_outside (outside_resume s)
@[simp] theorem resume_table (s : State) : (resume s).map.table = s.map.table :=
  mapTable_of_outside (outside_resume s)
@[simp] theorem resume_mapState (s : State) : (resume s).map.state = s.map.state :=
  mapState_of_outside (outside_resume s)

end Sys2Proof.Machine
end

