-- ==== Sys2Proof/Laws/Settle.lean ====
section
/-! SUPPORT. What the end of an event can do (R109, R183), and the outcome of an event. -/

namespace Sys2Proof.Machine

/-- An event always answers a next state. -/
theorem event_next (can : Bool) (f : State → State) (s : State) : ∃ t, event can f s = .next t := by
  unfold event; split
  · exact ⟨_, rfl⟩
  · exact ⟨_, rfl⟩

theorem event_true (can : Bool) (f : State → State) (s : State) (h : can = true) :
    event can f s = .next (settle s (f s)) := by simp [event, h]

theorem event_false (can : Bool) (f : State → State) (s : State) (h : can = false) : event can f s = .next s := by
  simp [event, h]

/-- With no claim waiting, or no place free, no claim joins. -/
theorem joinClaims_id (s : State) (h : claimsJoined s) : joinClaims s = s := by
  unfold joinClaims
  rcases h with h | h
  · rw [h]; simp only [joinFrom]; rw [← h]
  · match hc : s.claimOrder with
    | [] => simp only [joinFrom]; rw [← hc]
    | c :: r => simp only [joinFrom]; rw [if_neg (by omega), ← hc]

/-- With no claim waiting, or one place free in the queue, the first waiting claim joins (R109). -/
theorem joinClaims_first (s : State) (h : s.claimOrder = [] ∨ s.queue.length + 1 = Config.queueSize)
    (hh : ∀ c, s.claimOrder.head? = some c → c.who = .held → s.holding ≠ none) : joinClaims s = firstJoined s := by
  unfold joinClaims firstJoined
  cases hc : s.claimOrder with
  | nil => show ({ s with claimOrder := [] } : State) = s; rw [← hc]
  | cons c cs =>
    have hl : s.queue.length + 1 = Config.queueSize := h.resolve_left (by simp [hc])
    have stop : ∀ t : State, Config.queueSize ≤ t.queue.length → joinFrom cs t = { t with claimOrder := cs } := by
      intro t ht
      cases cs with
      | nil => rfl
      | cons d ds =>
        show (if t.queue.length < Config.queueSize then _ else _) = _
        rw [if_neg (by omega)]
    show (if s.queue.length < Config.queueSize then joinFrom cs (joinClaim c s) else _) = _
    rw [if_pos (by omega)]
    unfold joinClaim
    cases hw : c.who with
    | held =>
      cases hd : s.holding with
      | none => exact absurd hd (hh c (by simp [hc]) hw)
      | some d =>
        dsimp only
        rw [stop _ (by simp; omega), hw]
        simp
    | slot i =>
      dsimp only
      rw [stop _ (by simp [markSlot]; omega), hw]
      rfl

@[simp] theorem besidesStatus_claimStatus (u : SetupBlock) (s : State) :
    besidesStatus (claimStatus u s) = besidesStatus s := by unfold claimStatus; split <;> rfl

@[simp] theorem besidesStatus_beginPass (s : State) : besidesStatus (beginPass s) = besidesStatus s := by
  unfold beginPass; split
  · rfl
  · split
    · rw [besidesStatus_claimStatus]; rfl
    · rfl

@[simp] theorem besidesStatus_noteChange (s0 s1 : State) : besidesStatus (noteChange s0 s1) = besidesStatus s1 := by
  unfold noteChange; split <;> rfl

/-- The end of an event joins claims and touches the status pass, and nothing else. -/
theorem besidesStatus_settle (s0 s1 : State) :
    besidesStatus (settle s0 s1) = besidesStatus (joinClaims s1) := by simp [settle]

theorem besidesStatus_settle_id (s0 s1 : State) (h : claimsJoined s1) :
    besidesStatus (settle s0 s1) = besidesStatus s1 := by rw [besidesStatus_settle, joinClaims_id s1 h]

/-- A command that can take place: its next state, but for the status pass, is its effect. -/
theorem event_effect (can : Bool) (f : State → State) (s : State) (h : can = true) (hj : claimsJoined (f s)) :
    ∃ t, event can f s = .next t ∧ besidesStatus t = besidesStatus (f s) :=
  ⟨_, event_true can f s h, besidesStatus_settle_id s (f s) hj⟩

/-- A command whose effect leaves one place in a full queue: the first waiting claim joins at its end. -/
theorem event_joined (can : Bool) (f : State → State) (s : State) (h : can = true)
    (hq : (f s).claimOrder = [] ∨ (f s).queue.length + 1 = Config.queueSize)
    (hh : ∀ c, (f s).claimOrder.head? = some c → c.who = .held → (f s).holding ≠ none) :
    ∃ t, event can f s = .next t ∧ besidesStatus t = besidesStatus (firstJoined (f s)) :=
  ⟨_, event_true can f s h, by rw [besidesStatus_settle, joinClaims_first _ hq hh]⟩

/-! ### Fields through the end of an event -/

theorem mem_besides {s t : State} (h : besidesStatus t = besidesStatus s) : t.mem = s.mem := by
  have e := congrArg State.mem h; exact e
theorem map_besides {s t : State} (h : besidesStatus t = besidesStatus s) : t.map = s.map := by
  have e := congrArg State.map h; exact e
theorem composer_besides {s t : State} (h : besidesStatus t = besidesStatus s) : t.composer = s.composer := by
  have e := congrArg State.composer h; exact e

@[simp] theorem joinClaim_keeps_mem (c : Claim) (s : State) : (joinClaim c s).mem = s.mem := by
  unfold joinClaim; repeat' split
  all_goals rfl
@[simp] theorem joinClaim_keeps_pending (c : Claim) (s : State) : (joinClaim c s).pending = s.pending := by
  unfold joinClaim; repeat' split
  all_goals rfl

/-- What a claim that joins can change: the queue, the holding stage, the slots and the claim order. -/
def besidesQueue (s : State) : State :=
  { besidesStatus s with queue := [], holding := none, slots := State.reset.slots, claimOrder := [] }

@[simp] theorem besidesQueue_joinClaim (c : Claim) (s : State) : besidesQueue (joinClaim c s) = besidesQueue s := by
  unfold joinClaim; repeat' split
  all_goals rfl

theorem besidesQueue_joinFrom (cs : List Claim) (s : State) : besidesQueue (joinFrom cs s) = besidesQueue s := by
  induction cs generalizing s with
  | nil => rfl
  | cons c r ih =>
    simp only [joinFrom]; split
    · rw [ih, besidesQueue_joinClaim]
    · rfl

theorem besidesQueue_of_status {s t : State} (h : besidesStatus t = besidesStatus s) :
    besidesQueue t = besidesQueue s := by
  unfold besidesQueue; rw [h]

/-- The end of an event changes the queue, the holding stage, the slots, the claim order and the status pass,
and nothing else. -/
theorem besidesQueue_settle (s0 s1 : State) : besidesQueue (settle s0 s1) = besidesQueue s1 := by
  rw [besidesQueue_of_status (besidesStatus_settle s0 s1)]
  exact besidesQueue_joinFrom _ _

@[simp] theorem settle_mem (s0 s1 : State) : (settle s0 s1).mem = s1.mem := by
  have e := congrArg State.mem (besidesQueue_settle s0 s1); exact e
@[simp] theorem settle_pending (s0 s1 : State) : (settle s0 s1).pending = s1.pending := by
  have e := congrArg State.pending (besidesQueue_settle s0 s1); exact e
@[simp] theorem settle_fairness (s0 s1 : State) : (settle s0 s1).fairness = s1.fairness := by
  have e := congrArg State.fairness (besidesQueue_settle s0 s1); exact e
@[simp] theorem settle_map (s0 s1 : State) : (settle s0 s1).map = s1.map := by
  have e := congrArg State.map (besidesQueue_settle s0 s1); exact e
@[simp] theorem settle_setup (s0 s1 : State) : (settle s0 s1).setup = s1.setup := by
  have e := congrArg State.setup (besidesQueue_settle s0 s1); exact e
@[simp] theorem settle_composer (s0 s1 : State) : (settle s0 s1).composer = s1.composer := by
  have e := congrArg State.composer (besidesQueue_settle s0 s1); exact e
@[simp] theorem settle_port (s0 s1 : State) : (settle s0 s1).port = s1.port := by
  have e := congrArg State.port (besidesQueue_settle s0 s1); exact e
@[simp] theorem settle_attn (s0 s1 : State) : (settle s0 s1).attn = s1.attn := by
  have e := congrArg State.attn (besidesQueue_settle s0 s1); exact e
@[simp] theorem settle_timer (s0 s1 : State) : (settle s0 s1).timer = s1.timer := by
  have e := congrArg State.timer (besidesQueue_settle s0 s1); exact e
@[simp] theorem settle_lock (s0 s1 : State) : (settle s0 s1).lock = s1.lock := by
  have e := congrArg State.lock (besidesQueue_settle s0 s1); exact e
@[simp] theorem settle_counters (s0 s1 : State) : (settle s0 s1).report.counters = s1.report.counters := by
  have e := congrArg (fun x => x.report.counters) (besidesQueue_settle s0 s1); exact e
@[simp] theorem settle_causes (s0 s1 : State) : (settle s0 s1).report.pending = s1.report.pending := by
  have e := congrArg (fun x => x.report.pending) (besidesQueue_settle s0 s1); exact e

end Sys2Proof.Machine
end

