-- ==== Sys2Proof/Laws/Setup.lean ====
section
/-! SUPPORT. What validation guarantees of an active setup: its geometry and where its windows lie. -/

namespace Sys2Proof.Machine

/-- A block with result 0001h passes every check (R196). -/
theorem validate_accepts (k : BitVec 4) (u : SetupBlock) (h : validate k u = 0x0001#16) :
    geometryFails u = false ∧ capacityFails u = false ∧ windowsFail k u = false ∧ scannerFails u = false ∧
      limitsFail u = false := by
  simp only [validate] at h
  repeat' split at h
  all_goals first | (exact absurd h (by decide)) | simp_all

/-- Rows, columns and cells of an accepted block (R196 check 1). -/
theorem valid_geometry (k : BitVec 4) (u : SetupBlock) (h : validate k u = 0x0001#16) :
    1 ≤ setupRows u ∧ setupRows u ≤ 32 ∧ 8 ≤ setupCols u ∧ setupCols u ≤ 160 ∧ formSize u ≤ 4096 ∧
      (statusRowOn u = true → 24 ≤ setupCols u) := by
  have hg := (validate_accepts k u h).1
  simp only [geometryFails, Bool.or_eq_false_iff, decide_eq_false_iff_not, Bool.and_eq_false_iff] at hg
  obtain ⟨⟨⟨⟨⟨h1, h2⟩, h3⟩, h4⟩, h5⟩, h6⟩ := hg
  refine ⟨by omega, by omega, by omega, by omega, by omega, ?_⟩
  intro hs
  rcases h6 with h6 | h6
  · simp [hs] at h6
  · simp at h6; omega

/-- N is at least 8. -/
theorem valid_formSize (k : BitVec 4) (u : SetupBlock) (h : validate k u = 0x0001#16) : 0 < formSize u := by
  have := valid_geometry k u h
  exact Nat.mul_pos (by omega) (by omega)

/-- A window that is not DISABLED passes the checks on one window. -/
theorem valid_window (k : BitVec 4) (u : SetupBlock) (h : validate k u = 0x0001#16) (w : Nat) (hw : w < 4)
    (hk : windowKind u w ≠ .disabled) : windowFails k u w = false := by
  have hf := (validate_accepts k u h).2.2.1
  simp only [windowsFail, Bool.or_eq_false_iff] at hf
  have h4 := hf.2
  rw [List.any_eq_false] at h4
  have hm : w ∈ [0, 1, 2, 3].filter (fun w => windowKind u w != .disabled) := by
    rw [List.mem_filter]
    refine ⟨?_, by simpa using hk⟩
    have : w = 0 ∨ w = 1 ∨ w = 2 ∨ w = 3 := by omega
    simpa using this
  simpa using h4 w hm

/-- A window of an accepted block starts at a multiple of its size and ends inside the 24-bit space. -/
theorem window_fits (k : BitVec 4) (u : SetupBlock) (h : validate k u = 0x0001#16) (w : Nat) (hw : w < 4)
    (hk : windowKind u w ≠ .disabled) : windowBase u w + windowSize u w ≤ 2 ^ 24 := by
  have hv := valid_window k u h w hw hk
  simp only [windowFails, Bool.or_eq_false_iff, decide_eq_false_iff_not] at hv
  obtain ⟨⟨⟨h1, h2⟩, _⟩, _⟩ := hv
  have h2 : windowBase u w % windowSize u w = 0 := by simpa using h2
  have hb : windowBase u w < 2 ^ 24 := by
    have : bits (setupWord u (3 + 3 * w)) 0 15 < 2 ^ 15 := Nat.mod_lt _ (by decide)
    simp only [windowBase]; omega
  have hd : windowSize u w ∣ 2 ^ 24 := by
    have e : windowSize u w = 2 ^ (9 + windowSizeCode u w) := by
      simp only [windowSize, Nat.pow_add]
    rw [e]
    exact Nat.pow_dvd_pow 2 (by omega)
  obtain ⟨q, hq⟩ := Nat.dvd_of_mod_eq_zero h2
  obtain ⟨r, hr⟩ := hd
  have hp : 0 < windowSize u w := Nat.mul_pos (by decide) (Nat.pow_pos (by decide))
  rw [hq, hr]
  rw [hq, hr] at hb
  have : q < r := Nat.lt_of_mul_lt_mul_left hb
  calc windowSize u w * q + windowSize u w = windowSize u w * (q + 1) := by rw [Nat.mul_succ]
    _ ≤ windowSize u w * r := Nat.mul_le_mul_left _ this

/-- The window found for a kind is one of the four and has that kind. -/
theorem windowOf_kind (u : SetupBlock) (k : WindowKind) (w : Nat) (h : windowOf u k = some w) :
    w < 4 ∧ windowKind u w = k := by
  unfold windowOf at h
  have h1 := List.find?_some h
  have h2 := List.mem_of_find?_eq_some h
  refine ⟨?_, by simpa using h1⟩
  simp at h2; omega

/-- A kind that some window has is found. -/
theorem windowOf_some (u : SetupBlock) (k : WindowKind) (h : kindCount u k ≠ 0) : ∃ w, windowOf u k = some w := by
  unfold windowOf
  cases hf : [0, 1, 2, 3].find? (fun w => windowKind u w == k) with
  | some w => exact ⟨w, rfl⟩
  | none =>
    exfalso
    apply h
    rw [List.find?_eq_none] at hf
    unfold kindCount
    rw [List.length_eq_zero_iff, List.filter_eq_nil_iff]
    exact hf

/-- An accepted block has a SCREEN window, large enough for positions 0 to M (R196). -/
theorem valid_screen (k : BitVec 4) (u : SetupBlock) (h : validate k u = 0x0001#16) :
    ∃ w, windowOf u .screen = some w ∧ screenBase u = windowBase u w ∧ screenUsed u ≤ windowSize u w := by
  have hf := (validate_accepts k u h).2.2.1
  simp only [windowsFail, Bool.or_eq_false_iff] at hf
  have hc : kindCount u .screen = 1 := by simpa using hf.1.1.1
  obtain ⟨w, hw⟩ := windowOf_some u .screen (by omega)
  obtain ⟨hw4, hk⟩ := windowOf_kind u .screen w hw
  refine ⟨w, hw, by simp [screenBase, hw], ?_⟩
  have hv := valid_window k u h w hw4 (by rw [hk]; simp)
  simp only [windowFails, hk, Bool.or_eq_false_iff] at hv
  have := hv.2
  simp at this
  exact this

/-- Positions 0 to M of an accepted block lie inside the 24-bit space. -/
theorem screen_fits (k : BitVec 4) (u : SetupBlock) (h : validate k u = 0x0001#16) :
    screenBase u + screenUsed u ≤ 2 ^ 24 := by
  obtain ⟨w, hw, hb, hs⟩ := valid_screen k u h
  obtain ⟨hw4, hk⟩ := windowOf_kind u .screen w hw
  have := window_fits k u h w hw4 (by rw [hk]; simp)
  omega

/-- The SCREEN base is even. -/
theorem screenBase_even (u : SetupBlock) : screenBase u % 2 = 0 := by
  unfold screenBase
  cases windowOf u .screen with
  | none => rfl
  | some w => simp only [Option.elim, windowBase]; omega

/-- N is at most M. -/
theorem formSize_le_mirror (u : SetupBlock) : formSize u ≤ mirrorPos u := by unfold mirrorPos; omega

/-- The byte address of the cell at a position 0 to M. -/
theorem byteAddr_cellAddr (k : BitVec 4) (u : SetupBlock) (h : validate k u = 0x0001#16) (p : Nat)
    (hp : p ≤ mirrorPos u) : byteAddr (cellAddr u p) = screenBase u + 2 * p := by
  have hf := screen_fits k u h
  have he := screenBase_even u
  simp only [screenUsed] at hf
  simp only [byteAddr, cellAddr, wordAddr, BitVec.toNat_ofNat]
  rw [Nat.mod_eq_of_lt (by omega)]
  omega

/-- The position of the cell at a position 0 to M. -/
theorem screenPos_cellAddr (k : BitVec 4) (u : SetupBlock) (h : validate k u = 0x0001#16) (p : Nat)
    (hp : p ≤ mirrorPos u) : screenPos u (cellAddr u p) = some p := by
  unfold screenPos
  rw [byteAddr_cellAddr k u h p hp, if_pos (by omega)]
  congr 1
  omega

/-- A form-area position is where its address says. -/
theorem formPos_cellAddr (k : BitVec 4) (u : SetupBlock) (h : validate k u = 0x0001#16) (p : Nat)
    (hp : p < formSize u) : formPos u (cellAddr u p) = some p := by
  have := formSize_le_mirror u
  unfold formPos
  rw [screenPos_cellAddr k u h p (by omega)]
  simp [hp]

/-- The status row and the mirror word lie outside the form area. -/
theorem formPos_status (k : BitVec 4) (u : SetupBlock) (h : validate k u = 0x0001#16) (p : Nat)
    (h1 : formSize u ≤ p) (h2 : p ≤ mirrorPos u) : formPos u (cellAddr u p) = none := by
  unfold formPos
  rw [screenPos_cellAddr k u h p h2]
  simp; omega

/-- An address on a form-area cell is that cell's address. -/
theorem cellAddr_formPos (u : SetupBlock) (a : WordAddr) (p : Nat) (h : formPos u a = some p) :
    p < formSize u ∧ cellAddr u p = a := by
  have he := screenBase_even u
  unfold formPos screenPos at h
  split at h
  · rename_i q hq
    split at hq
    · rename_i hb
      simp only [Option.some.injEq] at hq
      split at h
      · simp only [Option.some.injEq] at h
        subst h
        refine ⟨by assumption, ?_⟩
        subst hq
        apply BitVec.eq_of_toNat_eq
        have := a.isLt
        simp only [cellAddr, wordAddr, BitVec.toNat_ofNat, byteAddr] at hb ⊢
        rw [Nat.mod_eq_of_lt (by omega)]
        omega
      · simp at h
    · simp at hq
  · simp at h

/-- Cells at two form-area positions have two addresses. -/
theorem cellAddr_inj (k : BitVec 4) (u : SetupBlock) (h : validate k u = 0x0001#16) (p q : Nat)
    (hp : p < formSize u) (hq : q < formSize u) (e : cellAddr u p = cellAddr u q) : p = q := by
  have := formPos_cellAddr k u h p hp
  rw [e, formPos_cellAddr k u h q hq] at this
  simpa using this.symm

theorem sharesByte_false {b1 n1 b2 n2 : Nat} (h : sharesByte b1 n1 b2 n2 = false) : b2 + n2 ≤ b1 ∨ b1 + n1 ≤ b2 := by
  simp only [sharesByte, Bool.and_eq_false_iff, decide_eq_false_iff_not] at h
  omega

/-- An address on a form-area cell lies in the bytes of positions 0 to M. -/
theorem formPos_range (u : SetupBlock) (a : WordAddr) (p : Nat) (h : formPos u a = some p) :
    screenBase u ≤ byteAddr a ∧ byteAddr a + 2 ≤ screenBase u + screenUsed u := by
  have hm := formSize_le_mirror u
  have he := screenBase_even u
  unfold formPos screenPos at h
  split at h
  · rename_i q hq
    split at hq
    · rename_i hb
      simp only [Option.some.injEq] at hq
      split at h
      · refine ⟨hb, ?_⟩
        simp only [screenUsed]
        simp only [byteAddr] at hb hq ⊢
        omega
      · simp at h
    · simp at hq
  · simp at h

/-- The byte address of a word of the setup block. -/
theorem byteAddr_setupAddr (k : BitVec 4) (i : Nat) (hi : i < 32) :
    byteAddr (setupAddr k i) = setupBase k + 2 * i := by
  have := k.isLt
  simp only [byteAddr, setupAddr, wordAddr, setupBase, BitVec.toNat_ofNat]
  rw [Nat.mod_eq_of_lt (by omega)]
  omega

/-- The setup block lies outside the form area (R196). -/
theorem formPos_setup (k : BitVec 4) (u : SetupBlock) (h : validate k u = 0x0001#16) (i : Nat) (hi : i < 32) :
    formPos u (setupAddr k i) = none := by
  cases hf : formPos u (setupAddr k i) with
  | none => rfl
  | some p =>
    exfalso
    obtain ⟨w, hw, hb, hs⟩ := valid_screen k u h
    obtain ⟨hw4, hk⟩ := windowOf_kind u .screen w hw
    have hv := valid_window k u h w hw4 (by rw [hk]; simp)
    simp only [windowFails, Bool.or_eq_false_iff] at hv
    have hd := sharesByte_false hv.1.2
    have hr := formPos_range u _ p hf
    rw [byteAddr_setupAddr k i hi] at hr
    omega

/-- An accepted block has a REPORT window, clear of positions 0 to M and of the setup block (R196). -/
theorem valid_report (k : BitVec 4) (u : SetupBlock) (h : validate k u = 0x0001#16) :
    ∃ w, windowOf u .report = some w ∧ 512 ≤ windowSize u w ∧ windowBase u w + windowSize u w ≤ 2 ^ 24 ∧
      (screenBase u + screenUsed u ≤ windowBase u w ∨ windowBase u w + windowSize u w ≤ screenBase u) ∧
      (setupBase k + 64 ≤ windowBase u w ∨ windowBase u w + windowSize u w ≤ setupBase k) := by
  have hf := (validate_accepts k u h).2.2.1
  simp only [windowsFail, Bool.or_eq_false_iff] at hf
  have hc : kindCount u .report = 1 := by simpa using hf.1.1.2
  obtain ⟨w, hw⟩ := windowOf_some u .report (by omega)
  obtain ⟨hw4, hk⟩ := windowOf_kind u .report w hw
  have hv := valid_window k u h w hw4 (by rw [hk]; simp)
  simp only [windowFails, hk, Bool.or_eq_false_iff] at hv
  refine ⟨w, hw, ?_, window_fits k u h w hw4 (by rw [hk]; simp), sharesByte_false hv.2, sharesByte_false hv.1.2⟩
  have : 1 ≤ 2 ^ windowSizeCode u w := Nat.one_le_two_pow
  simp only [windowSize]; omega

/-- The report words lie outside the form area and are not the apply word (R50, R66). -/
theorem report_apart (k : BitVec 4) (u : SetupBlock) (h : validate k u = 0x0001#16) (i : Nat) (hi : i < 32) :
    formPos u (reportAddr u i) = none ∧ reportAddr u i ≠ setupAddr k 31 := by
  obtain ⟨w, hw, hs, hfit, hd1, hd2⟩ := valid_report k u h
  have hev : windowBase u w % 2 = 0 := by simp only [windowBase]; omega
  have hb : byteAddr (reportAddr u i) = windowBase u w + 2 * i := by
    simp only [reportAddr, hw, Option.elim, byteAddr, wordAddr, BitVec.toNat_ofNat]
    rw [Nat.mod_eq_of_lt (by omega)]
    omega
  constructor
  · cases hf : formPos u (reportAddr u i) with
    | none => rfl
    | some p =>
      exfalso
      have hr := formPos_range u _ p hf
      rw [hb] at hr
      omega
  · intro e
    have h1 := byteAddr_setupAddr k 31 (by decide)
    rw [← e, hb] at h1
    omega

end Sys2Proof.Machine
end

