-- ==== Sys2Proof/Laws/Upkeep.lean ====
section
/-! SUPPORT. What the map's own operations do to its entries (R12 to R15), and what upkeep leaves alone. -/

namespace Sys2Proof.Machine

theorem entryAt_pos {table : List Entry} {p : Nat} {e : Entry} (h : entryAt table p = some e) : e.pos = p := by
  have := List.find?_some h; simpa using this

theorem entryAt_insert (e : Entry) (table : List Entry) (q : Nat) (h : entryAt table e.pos = none) :
    entryAt (insertEntry e table) q = if q = e.pos then some e else entryAt table q := by
  induction table with
  | nil =>
    simp only [insertEntry, entryAt, List.find?_cons, List.find?_nil]
    by_cases hq : q = e.pos
    · simp [hq]
    · have : (e.pos == q) = false := by simp; omega
      simp [hq, this]
  | cons x r ih =>
    have hx : x.pos ≠ e.pos := by
      intro hh; simp [entryAt, hh] at h
    have hr : entryAt r e.pos = none := by simpa [entryAt, List.find?_cons, hx] using h
    simp only [insertEntry]
    split
    · by_cases hq : q = e.pos
      · simp [entryAt, hq]
      · have : (e.pos == q) = false := by simp; exact fun hh => hq hh.symm
        simp [entryAt, List.find?_cons, hq, this]
    · have ih' := ih hr
      simp only [entryAt] at ih'
      by_cases hxq : x.pos = q
      · have : q ≠ e.pos := fun hh => hx (hxq.trans hh)
        simp [entryAt, hxq, this]
      · have hb : (x.pos == q) = false := by simpa using hxq
        simp only [entryAt, List.find?_cons, hb]
        exact ih'

theorem entryAt_remove (p : Nat) (table : List Entry) (q : Nat) :
    entryAt (removeEntry p table) q = if q = p then none else entryAt table q := by
  induction table with
  | nil => simp [removeEntry, entryAt]
  | cons x r ih =>
    simp only [removeEntry, entryAt] at *
    by_cases hx : x.pos = p
    · rw [List.filter_cons_of_neg (by simpa using hx), ih, List.find?_cons]
      by_cases hq : q = p
      · simp [hq]
      · have : (x.pos == q) = false := by simp [hx]; exact fun hh => hq hh.symm
        simp [hq, this]
    · rw [List.filter_cons_of_pos (by simpa using hx), List.find?_cons, List.find?_cons]
      cases hxq : (x.pos == q) with
      | true =>
        have h1 : x.pos = q := by simpa using hxq
        have : q ≠ p := fun hh => hx (h1.trans hh)
        simp [this]
      | false => exact ih

theorem entryAt_replace (p : Nat) (w : Word) (table : List Entry) (q : Nat) (e : Entry) (h : entryAt table p = some e) :
    entryAt (replaceEntry p w table) q = if q = p then some ⟨p, w⟩ else entryAt table q := by
  induction table with
  | nil => simp [entryAt] at h
  | cons x r ih =>
    simp only [replaceEntry, entryAt, List.map_cons, List.find?_cons] at *
    by_cases hx : x.pos = p
    · simp only [if_pos hx]
      by_cases hq : q = p
      · simp [hq]
      · have h1 : (p == q) = false := by simp; exact fun hh => hq hh.symm
        have h2 : (x.pos == q) = false := by simp [hx]; exact fun hh => hq hh.symm
        simp only [h1, h2, if_neg hq]
        clear ih h
        induction r with
        | nil => rfl
        | cons y r ih =>
          simp only [List.map_cons, List.find?_cons]
          by_cases hy : y.pos = p
          · have : (y.pos == q) = false := by simp [hy]; exact fun hh => hq hh.symm
            simp only [if_pos hy, this, h1]; exact ih
          · simp only [if_neg hy]
            cases (y.pos == q) <;> simp [ih]
    · have hb : (x.pos == p) = false := by simpa using hx
      simp only [hb] at h
      simp only [if_neg hx]
      cases hxq : (x.pos == q) with
      | true =>
        have h1 : x.pos = q := by simpa using hxq
        have : q ≠ p := fun hh => hx (h1.trans hh)
        simp [this]
      | false => exact ih h

/-- A write judged (R12): afterwards an entry stands at p exactly when the word is a mark, and every other entry is
as it was; only a 257th mark is not judged. -/
theorem judgeWrite_entryAt (p : Nat) (w : Word) (m m' : FieldMap) (h : judgeWrite p w m = some m') (q : Nat) :
    m'.state = m.state ∧ m'.scanPoint = m.scanPoint ∧
      entryAt m'.table q = if q = p then (if isMark w then some ⟨p, w⟩ else none) else entryAt m.table q := by
  unfold judgeWrite at h
  cases he : entryAt m.table p with
  | none =>
    cases hw : isMark w with
    | false =>
      simp only [he, hw] at h; cases h
      refine ⟨rfl, rfl, ?_⟩
      by_cases hq : q = p <;> simp [hq, he]
    | true =>
      simp only [he, hw] at h
      split at h
      · cases h
      · cases h; exact ⟨rfl, rfl, by rw [entryAt_insert _ _ _ he]; simp⟩
  | some e =>
    cases hw : isMark w with
    | false => simp only [he, hw] at h; cases h; exact ⟨rfl, rfl, by rw [entryAt_remove]; simp⟩
    | true => simp only [he, hw] at h; cases h; exact ⟨rfl, rfl, by rw [entryAt_replace _ _ _ _ _ he]; simp⟩

/-- A 257th mark is the only write that is not judged (R13). -/
theorem judgeWrite_none (p : Nat) (w : Word) (m : FieldMap) :
    judgeWrite p w m = none ↔ entryAt m.table p = none ∧ isMark w = true ∧ Config.tableSize ≤ m.table.length := by
  unfold judgeWrite
  cases he : entryAt m.table p <;> cases hw : isMark w  <;>
    by_cases hl : Config.tableSize ≤ m.table.length <;> simp [hl]

/-! ### A waiting read after a replacement (R15) -/

/-- A replacement changes nothing but the standing of a read in hand that waits for its grant. -/
theorem maskWaiting_hand (p : Nat) (s : State) : ∃ h, maskWaiting p s = { s with inHand := h } := by
  unfold maskWaiting
  repeat' split
  all_goals first | exact ⟨s.inHand, rfl⟩ | exact ⟨_, rfl⟩

theorem maskWaiting_alone {p : Nat} {s : State} (h : s.inHand = none) : maskWaiting p s = s := by simp [maskWaiting, h]

/-- A read of the field that waits is masked by the table as it stands after the replacement. -/
theorem maskWaiting_masked {p : Nat} {s : State} {t : Transfer} {r : Route} (h : s.inHand = some ⟨t, .waiting r⟩)
    (hw : isWrite t = false) (hf : inFieldOf p s t.addr = true) (hd : decideTransfer s t = .masked) :
    maskWaiting p s = { s with inHand := some ⟨t, .waiting .maskedRead⟩ } := by simp [maskWaiting, h, hw, hf, hd]

/-- One the new HIDDEN does not mask takes the route of its decision. -/
theorem maskWaiting_route {p : Nat} {s : State} {t : Transfer} {r q : Route} (h : s.inHand = some ⟨t, .waiting r⟩)
    (hw : isWrite t = false) (hf : inFieldOf p s t.addr = true) (hd : decideTransfer s t = .route q) :
    maskWaiting p s = { s with inHand := some ⟨t, .waiting q⟩ } := by simp [maskWaiting, h, hw, hf, hd]

/-- A read of another field keeps its decision (R60). -/
theorem maskWaiting_other {p : Nat} {s : State} {t : Transfer} {r : Route} (h : s.inHand = some ⟨t, .waiting r⟩)
    (hf : inFieldOf p s t.addr = false) : maskWaiting p s = s := by simp [maskWaiting, h, hf]

/-- A judged write leaves the map judged and everything but the hand as it was. -/
theorem followWrite_hand (p : Nat) (w : Word) (m : FieldMap) (s : State) :
    ∃ h, followWrite p w m s = { s with map := m, inHand := h } := by
  unfold followWrite
  split
  · exact maskWaiting_hand p { s with map := m }
  · exact ⟨s.inHand, rfl⟩

theorem followWrite_alone {p : Nat} {w : Word} {m : FieldMap} {s : State} (h : s.inHand = none) :
    followWrite p w m s = { s with map := m } := by
  unfold followWrite
  split
  · exact maskWaiting_alone h
  · rfl

end Sys2Proof.Machine
end

