-- ==== Sys2Proof/Laws/Composer.lean ====
section
/-! SUPPORT. The composer at its work with no transfer of the processor in hand: each of its operations in the words of
`Safety`, and the three ways a continuation is reached (a posting taken, a read, a write). -/

namespace Sys2Proof.Machine

/-! ### Carrying on -/

theorem carryOn_call (n : Nat) {s : State} {k : Cont} {rest : List Op} (h : s.composer.todo = .call k :: rest) :
    carryOn (n + 1) s = carryOn n (runCont k (setTodo rest s)) := by
  show (match s.composer.todo with
    | [] => s
    | .call k :: rest => carryOn n (runCont k (setTodo rest s))
    | op :: _ =>
      match s.setup.active with
      | some u => beginOp u op s
      | none => s) = _
  rw [h]

theorem carryOn_op (n : Nat) {s : State} {op : Op} {rest : List Op} {u : SetupBlock} (h : s.composer.todo = op :: rest)
    (hop : ∀ k, op ≠ .call k) (hu : s.setup.active = some u) : carryOn (n + 1) s = beginOp u op s := by
  unfold carryOn
  rw [h]
  cases op <;> simp_all

/-- With nothing left to do the composer rests. -/
theorem carryOn_nil (n : Nat) {s : State} (h : s.composer.todo = []) : carryOn n s = s := by
  cases n with
  | zero => rfl
  | succ n => unfold carryOn; rw [h]

/-! ### The end of a piece of work -/

theorem releaseRange_alone (s : State) (h1 : s.inHand = none) (h2 : s.processorInFlight = false) :
    releaseRange s = { s with heldRange := .empty, posting := none, composer.posted := .empty } := by
  unfold releaseRange
  split
  · rename_i h
    obtain ⟨a, b⟩ := h
    cases s; simp_all
  · simp [h2, takePosting, decideAnew, h1]

theorem endWork_key (s : State) (c : Byte) (h1 : s.inHand = none) (h2 : s.processorInFlight = false)
    (hw : s.composer.work = .token (.key c)) : endWork s = workEnded s.composer.cursor s := by
  have h : endWork s = idleComposer (releaseRange s) := by simp [endWork, hw, freeTokenSlot]
  rw [h, releaseRange_alone s h1 h2]; rfl

theorem endWork_scan (s : State) (i : Fin 4) (h1 : s.inHand = none) (h2 : s.processorInFlight = false)
    (hw : s.composer.work = .token (.scan i)) : endWork s = slotFreed i (workEnded s.composer.cursor s) := by
  have h : endWork s = idleComposer (releaseRange (freeSlot i s)) := by simp [endWork, hw, freeTokenSlot]
  rw [h, releaseRange_alone (freeSlot i s) h1 h2]; rfl

theorem endWork_directive (s : State) (d : Directive) (op : Word) (h1 : s.inHand = none)
    (h2 : s.processorInFlight = false) (hw : s.composer.work = .directive d op) :
    endWork s = workEnded s.composer.cursor s := by
  have h : endWork s = idleComposer (releaseRange s) := by simp [endWork, hw]
  rw [h, releaseRange_alone s h1 h2]; rfl

theorem raiseError_eq (c : ErrorCode) (s : State) :
    raiseError c s =
      if s.lock = .opened then
        { s with lock := .error c, tone := true, timer.toneCompare := some (s.timer.counter + 1000#16) }
      else s := by
  unfold raiseError
  cases h : s.lock with
  | opened => simp [toneTrigger, Config.toneTicks]
  | system w => simp
  | error e => simp

theorem raiseError_keeps (c : ErrorCode) (s : State) :
    (raiseError c s).inHand = s.inHand ∧ (raiseError c s).port = s.port ∧ (raiseError c s).composer = s.composer := by
  unfold raiseError; split <;> exact ⟨rfl, rfl, rfl⟩

theorem processorInFlight_port {s t : State} (h : t.port = s.port) : t.processorInFlight = s.processorInFlight := by
  simp [State.processorInFlight, h]

theorem refuse_key (c : ErrorCode) (s : State) (code : Byte) (h1 : s.inHand = none) (h2 : s.processorInFlight = false)
    (hw : s.composer.work = .token (.key code)) : refuse c s = refusedAt s.composer.cursor c s := by
  obtain ⟨a, b, d⟩ := raiseError_keeps c s
  unfold refuse
  rw [endWork_key _ code (a.trans h1) ((processorInFlight_port b).trans h2) (by rw [d, hw]), d, raiseError_eq]
  rfl

theorem refuse_scan (c : ErrorCode) (s : State) (i : Fin 4) (h1 : s.inHand = none) (h2 : s.processorInFlight = false)
    (hw : s.composer.work = .token (.scan i)) : refuse c s = slotFreed i (refusedAt s.composer.cursor c s) := by
  obtain ⟨a, b, d⟩ := raiseError_keeps c s
  unfold refuse
  rw [endWork_scan _ i (a.trans h1) ((processorInFlight_port b).trans h2) (by rw [d, hw]), d, raiseError_eq]
  rfl

/-- A refusal with the cursor moved first, as the tests of validation and of exit processing make it. -/
theorem refuse_at (c : ErrorCode) (s : State) (x : Nat) (code : Byte) (h1 : s.inHand = none)
    (h2 : s.processorInFlight = false) (hw : s.composer.work = .token (.key code)) :
    endWork (setCursor x (raiseError c s)) = refusedAt (x % s.formN) c s := by
  obtain ⟨a, b, d⟩ := raiseError_keeps c s
  rw [endWork_key (setCursor x (raiseError c s)) code (a.trans h1)
    ((processorInFlight_port b : (setCursor x (raiseError c s)).processorInFlight = _).trans h2)
    (by simp only [setCursor]; rw [d, hw])]
  have hn : (raiseError c s).formN = s.formN := by unfold raiseError; split <;> rfl
  simp only [setCursor, hn]
  rw [raiseError_eq]
  by_cases hl : s.lock = .opened
  · rw [if_pos hl]; simp only [refusedAt, if_pos hl]; rfl
  · rw [if_neg hl]; simp only [refusedAt, if_neg hl]; rfl

theorem finishDirective_running (k : Completion) (s : State) (d : Directive) (op : Word) (h1 : s.inHand = none)
    (h2 : s.processorInFlight = false) (hw : s.composer.work = .directive d op) (hi : s.report.intake.state = .running) :
    finishDirective k s = directiveEnded s.composer.cursor k s := by
  have h : completeDirective k s =
      offer .directiveDone { s with report.intake.state := .completed, report.intake.completion := k } := by
    simp [completeDirective, hw, hi]
  unfold finishDirective
  rw [h, endWork_directive _ d op (by exact h1) (by exact h2) (by exact hw)]
  rfl

theorem decideHeld_alone (s : State) (h : s.inHand = none) : decideHeld s = s := by simp [decideHeld, h]

/-! ### Series of transfers -/

theorem diffOps_from (n : Nat) (f : Field) (j : Nat) (old new : List Word) (h : old.length = new.length) :
    diffOps n f j old new =
      ((List.range old.length).filter (fun i => old.getD i 0#16 != new.getD i 0#16)).map
        (fun i => Op.write (posAt n f (j + i)) (new.getD i 0#16)) := by
  induction old generalizing j new with
  | nil => rfl
  | cons o os ih =>
    cases new with
    | nil => simp at h
    | cons w ws =>
      have hl : os.length = ws.length := by simpa using h
      simp only [diffOps, ih (j + 1) ws hl, List.length_cons, List.range_succ_eq_map, List.filter_cons, List.filter_map,
        List.getD_cons_zero, bne_iff_ne, ne_eq]
      have hc : ((fun i => (o :: os).getD i 0#16 != (w :: ws).getD i 0#16) ∘ Nat.succ) =
          fun i => os.getD i 0#16 != ws.getD i 0#16 := by funext i; simp
      rw [hc]
      have ha : ∀ i, j + 1 + i = j + (i + 1) := by omega
      by_cases e : o = w
      · simp [e, List.map_map, Function.comp_def, ha]
      · simp [e, List.map_map, Function.comp_def, ha]

/-- The writes of the changed cells (R39). -/
theorem diffOps_eq (n : Nat) (f : Field) (old new : List Word) (h : old.length = new.length) :
    diffOps n f 0 old new = cellWrites n f old new := by
  rw [diffOps_from n f 0 old new h]
  simp [cellWrites, changedOffsets]

theorem listOps_eq (i : Nat) (ws : List Word) : listOps i ws = ws.zipIdx.map (fun d => Op.list (i + d.2) d.1) := by
  suffices h : ∀ k, listOps (i + k) ws = (ws.zipIdx k).map (fun d => Op.list (i + d.2) d.1) from h 0
  induction ws with
  | nil => intro k; rfl
  | cons w r ih => intro k; simp only [listOps, List.zipIdx_cons, List.map_cons]; rw [Nat.add_assoc, ih]

theorem fromPos_eq (p : Nat) (ws : List Word) : fromPos p ws = ws.zipIdx.map (fun d => (p + d.2, d.1)) := by
  suffices h : ∀ k, fromPos (p + k) ws = (ws.zipIdx k).map (fun d => (p + d.2, d.1)) from h 0
  induction ws with
  | nil => intro k; rfl
  | cons w r ih => intro k; simp only [fromPos, List.zipIdx_cons, List.map_cons]; rw [Nat.add_assoc, ih]

theorem readOps_eq (n : Nat) (f : Field) : readOps n f = cellReads n f := by
  simp [readOps, fieldCells, cellReads, List.map_map, Function.comp_def]

theorem adjustCells_length (a : Adjust) (ws : List Word) : (adjustCells a ws).length = ws.length := by
  have h : (significantCells ws).length ≤ ws.length := List.length_filter_le _ _
  cases a <;> simp [adjustCells] <;> omega

theorem minusCells_length (a : Adjust) (ws : List Word) (h : (significantCells ws).length < ws.length) :
    (minusCells a ws).length = ws.length := by simp [minusCells]; omega

/-! ### How a continuation is reached -/

theorem claimsJoined_outside {s t : State} (h : outside t = outside s) (hj : claimsJoined s) : claimsJoined t := by
  unfold claimsJoined at *
  rw [claimOrder_of_outside h, queue_of_outside h]; exact hj

/-- The posting the composer awaits is taken (R53): the continuation behind it runs in the same event. -/
theorem posting_runs {u : SetupBlock} {r : HeldRange} {k : Cont} {s : State} (h : postingDue u r k s) :
    ∃ t, exec .heldRangePosting s = .next t ∧
      besidesStatus t = besidesStatus (carryOn 15 (runCont k (setTodo [] (rangeTaken r s)))) := by
  obtain ⟨hj, hu, hi, hf, hp, ht⟩ := h
  have he : postingTaken s = carryOn 15 (runCont k (setTodo [] (rangeTaken r s))) := by
    have h1 : takePosting r s = rangeTaken r s := by simp [takePosting, decideAnew, hi, rangeTaken]
    unfold postingTaken
    rw [hp]
    simp only [h1]
    have h2 : (rangeTaken r s).composer.todo = [.post r, .call k] := ht
    rw [h2]
    exact carryOn_call 15 rfl
  rw [← he]
  refine event_effect (s.posting.isSome && !s.processorInFlight) postingTaken s (by simp [hp, hf]) ?_
  rw [he]
  exact claimsJoined_outside (by rw [outside_carryOn, outside_runCont]; rfl : outside _ = outside (rangeTaken r s)) hj

theorem abortDue_noAbort {s : State} (h : noAbort s) : abortDue s = false := by
  rcases h with h | h
  · simp [abortDue, h]
  · obtain ⟨a, b⟩ := h
    simp [abortDue, a, b]

/-- The last read of a series completes: the continuation behind it runs in the same event. -/
theorem read_runs {u : SetupBlock} {a : WordAddr} {k : Cont} {s : State} (h : lastReadDue u a k s) :
    ∃ t, exec .composerTransferCompletion s = .next t ∧
      besidesStatus t = besidesStatus (carryOn 15 (runCont k (setTodo [] (readTaken a s)))) := by
  obtain ⟨hj, hu, hi, ha, hp, p, ht⟩ := h
  have he : composerDone s = carryOn 15 (runCont k (setTodo [] (readTaken a s))) := by
    have h1 : composerDone s = carryComposer (setTodo [.call k] (readTaken a s)) := by
      unfold composerDone
      rw [hp]
      simp only [portDone, memAfter, learnTransfer, ht]
      rfl
    rw [h1, carryComposer, if_neg]
    · exact carryOn_call 15 rfl
    · rw [abortDue_noAbort (by exact ha)]; simp
  rw [← he]
  refine event_effect (carriesComposer s) composerDone s (by simp [carriesComposer, hp]) ?_
  rw [he]
  exact claimsJoined_outside (by rw [outside_carryOn, outside_runCont]; rfl : outside _ = outside (readTaken a s)) hj

/-- The last write before a continuation completes: the word is in memory, and in the table where it is a mark, and
the continuation runs in the same event (R15, R130). -/
theorem write_runs {u : SetupBlock} {p : Nat} {w : Word} {k : Cont} {rest : List Op} {s : State}
    (h : lastWriteDue u p w (.call k :: rest) s) :
    ∃ t, exec .composerTransferCompletion s = .next t ∧
      besidesStatus t = besidesStatus (carryOn 15 (runCont k (setTodo rest (wordWritten u p w s)))) := by
  obtain ⟨hj, hm, hu, hi, ha, hc, ⟨a, hfp, hp⟩, hk, ht⟩ := h
  have hl : learnWrite a { s with mem := writeLanes s.mem a .word w, port := none } = wordWritten u p w s := by
    unfold learnWrite
    simp only [hu, hfp]
    rw [readWord_writeWord _ _ _ hm]
    simp only [upkeep, hc]
    have hj : judgeWrite p w s.map =
        some { s.map with table := if isMark w then replaceEntry p w s.map.table else s.map.table } := by
      unfold judgeWrite
      cases he : entryAt s.map.table p with
      | none => rw [he] at hk; simp at hk; simp only [hk]; simp
      | some e => rw [he] at hk; simp at hk; simp only [hk]; simp
    simp only [hj, wordWritten, hp, Option.elim]
    exact followWrite_alone hi
  have he : composerDone s = carryOn 15 (runCont k (setTodo rest (wordWritten u p w s))) := by
    have h1 : composerDone s = carryComposer (setTodo (.call k :: rest) (wordWritten u p w s)) := by
      unfold composerDone
      rw [hp]
      simp only [portDone, memAfter, learnTransfer, hl]
      have : (wordWritten u p w s).composer.todo = .write p w :: .call k :: rest := ht
      simp only [this]
      rfl
    rw [h1, carryComposer, if_neg]
    · exact carryOn_call 15 rfl
    · rw [abortDue_noAbort (by exact ha)]; simp
  rw [← he]
  refine event_effect (carriesComposer s) composerDone s (by simp [carriesComposer, hp]) ?_
  rw [he]
  exact claimsJoined_outside
    (by rw [outside_carryOn, outside_runCont]; rfl : outside _ = outside (wordWritten u p w s)) hj

/-! ### What a continuation leaves for the composer to do -/

theorem carryOn_read (n p : Nat) (rest : List Op) {u : SetupBlock} {s : State} (hu : s.setup.active = some u) :
    carryOn (n + 1) (setTodo (.read p :: rest) s) = claiming (cellAddr u p) .read (.read p :: rest) s :=
  carryOn_op n (s := setTodo (.read p :: rest) s) (op := .read p) rfl (by simp) hu

theorem carryOn_write (n p : Nat) (w : Word) (rest : List Op) {u : SetupBlock} {s : State}
    (hu : s.setup.active = some u) :
    carryOn (n + 1) (setTodo (.write p w :: rest) s) =
      claiming (cellAddr u p) (.write .word w) (.write p w :: rest) s :=
  carryOn_op n (s := setTodo (.write p w :: rest) s) (op := .write p w) rfl (by simp) hu

theorem carryOn_eraseCell (n p : Nat) (rest : List Op) {u : SetupBlock} {s : State} (hu : s.setup.active = some u) :
    carryOn (n + 1) (setTodo (.eraseCell p :: rest) s) = claiming (cellAddr u p) .read (.eraseCell p :: rest) s :=
  carryOn_op n (s := setTodo (.eraseCell p :: rest) s) (op := .eraseCell p) rfl (by simp) hu

theorem carryOn_list (n i : Nat) (w : Word) (rest : List Op) {u : SetupBlock} {s : State}
    (hu : s.setup.active = some u) :
    carryOn (n + 1) (setTodo (.list i w :: rest) s) =
      claiming (returnAddr u i) (.write .word w) (.list i w :: rest) s :=
  carryOn_op n (s := setTodo (.list i w :: rest) s) (op := .list i w) rfl (by simp) hu

theorem carryOn_post (n : Nat) (r : HeldRange) (k : Cont) {u : SetupBlock} {s : State} (hu : s.setup.active = some u) :
    carryOn (n + 1) (setTodo [.post r, .call k] s) = awaiting r k s :=
  carryOn_op n (s := setTodo [.post r, .call k] s) (op := .post r) rfl (by simp) hu

/-- Ended work leaves nothing to do. -/
theorem carryOn_workEnded (n x : Nat) (s : State) : carryOn n (workEnded x s) = workEnded x s := carryOn_nil n rfl

theorem carryOn_refusedAt (n x : Nat) (c : ErrorCode) (s : State) :
    carryOn n (refusedAt x c s) = refusedAt x c s := carryOn_nil n rfl

/-- A token that is refused: nothing is left to do. -/
theorem carryOn_refuse_key (n : Nat) (c : ErrorCode) (s : State) (code : Byte) (h1 : s.inHand = none)
    (h2 : s.processorInFlight = false) (hw : s.composer.work = .token (.key code)) :
    carryOn n (refuse c s) = refusedAt s.composer.cursor c s := by
  rw [refuse_key c s code h1 h2 hw, carryOn_refusedAt]

/-- The closing writes (R159, R164). -/
theorem carryOn_closingWrites (n : Nat) (st : ListState) (ph : ListPhase) {u : SetupBlock} {s : State}
    (hu : s.setup.active = some u) :
    carryOn (n + 1) (closingWrites st { s with composer.listPhase := ph }) = listEnding u st ph s := by
  unfold closingWrites
  rw [carryOn_list n 3 _ _ (by exact hu)]
  cases st <;> rfl

theorem holdForGather_alone (s : State) (h : s.inHand = none) : holdForGather s = s := by
  unfold holdForGather; rw [h]; cases s.setup.active <;> rfl

theorem carryOn_openList (n : Nat) {u : SetupBlock} {s : State} (hu : s.setup.active = some u) (h : s.inHand = none) :
    carryOn (n + 1) (openList s) = listOpening u s := by
  unfold openList
  rw [holdForGather_alone _ (by exact h)]
  exact carryOn_list n 0 _ _ (by exact hu)

/-- Send lock, insert mode off, and the list or the end of the send (R116, R153, R161). -/
theorem carryOn_lockAndList (n : Nat) (code : Byte) {u : SetupBlock} {s : State} (hu : s.setup.active = some u)
    (h1 : s.inHand = none) (h2 : s.processorInFlight = false) (hw : s.composer.work = .token (.key code)) :
    carryOn (n + 1) (lockAndList s) = sendLocked u s := by
  have hl : insertOff (sendLock s) =
      { s with lock := if s.lock = .opened then .system .send else s.lock, composer.insertMode := false } := by
    unfold sendLock insertOff
    cases h : s.lock <;> simp [h]
  unfold lockAndList sendLocked
  simp only [hl]
  have hr : ∀ l : Lock, hasReturn { s with lock := l, composer.insertMode := false } = (windowOf u .return).isSome := by
    intro l; simp [hasReturn, hu]
  rw [hr]
  cases hk : windowOf u .return with
  | none =>
    simp only [Option.isSome_none, Bool.false_eq_true, if_false, if_true, finishSend]
    by_cases ha : s.composer.abortMark = true
    · simp only [ha, if_true]
      rw [endWork_key _ code (by exact h1) (by exact h2) (by exact hw)]
      exact carryOn_workEnded _ _ _
    · have ha' : s.composer.abortMark = false := by simpa using ha
      simp only [ha', Bool.false_eq_true, if_false]
      rw [endWork_key _ code (by exact h1) (by exact h2) (by exact hw)]
      exact carryOn_workEnded _ _ _
  | some w =>
    simp only [Option.isSome_some, if_true, reduceCtorEq, if_false]
    exact carryOn_openList n (by exact hu) (by exact h1)

/-- The end of a walk (R153, R159). -/
theorem carryOn_walkEnd (n : Nat) (w : Walk) {u : SetupBlock} {s : State} (hu : s.setup.active = some u)
    (h1 : s.inHand = none) (h2 : s.processorInFlight = false)
    (hw : w = .validate → ∃ code, s.composer.work = .token (.key code)) :
    carryOn (n + 1) (walkEnd w s) = walkOver u w s := by
  cases w with
  | validate =>
    obtain ⟨code, hw⟩ := hw rfl
    exact carryOn_lockAndList n code hu h1 h2 hw
  | gather => exact carryOn_closingWrites n .complete .closing hu

/-- A validation walk that finds the map outside CURRENT (R160). -/
theorem carryOn_walkLimit_validate (n : Nat) (code : Byte) {s : State} (h1 : s.inHand = none)
    (h2 : s.processorInFlight = false) (hw : s.composer.work = .token (.key code)) :
    carryOn n (walkLimit .validate s) = refusedAt s.composer.cursor .formatLimit s :=
  carryOn_refuse_key n _ s code h1 h2 hw

/-- A gather that finds the map outside CURRENT (R160). -/
theorem carryOn_walkLimit_gather (n : Nat) {u : SetupBlock} {s : State} (hu : s.setup.active = some u) :
    carryOn (n + 1) (walkLimit .gather s) = listEnding u .truncated .closing s :=
  carryOn_closingWrites n .truncated .closing hu

/-- A refusal does not depend on what the end of the work sets anyway. -/
theorem refusedAt_released (x : Nat) (c : ErrorCode) (s : State) :
    refusedAt x c
        { s with
          heldRange := .empty, posting := none, composer.posted := .empty, composer.lastHandled := none } =
      refusedAt x c s := by
  unfold refusedAt; split <;> rfl

/-- The walk goes on after the held field (R151 step 5). -/
theorem carryOn_nextStep (n : Nat) (w : Walk) (f : Field) {u : SetupBlock} {s : State} (hu : s.setup.active = some u)
    (h1 : s.inHand = none) (h2 : s.processorInFlight = false) (hf : s.composer.field = some f)
    (hw : w = .validate → ∃ code, s.composer.work = .token (.key code)) :
    carryOn (n + 1) (nextStep w s) = walkOn u w f s := by
  unfold nextStep walkOn
  have hh : heldField s = f := by simp [heldField, hf]
  rw [hh]
  cases f.mark with
  | none => exact carryOn_walkEnd n w hu h1 h2 hw
  | some m =>
    simp only
    unfold selectStep selectField
    cases hm : s.map.state with
    | current =>
      simp only [if_true]
      have hl : ({ s with composer.lastHandled := some m } : State).liveFields = s.liveFields := rfl
      simp only [hl]
      cases s.liveFields.find? (fun f => f.mark.any (fun p => decide (m < p))) with
      | none => exact carryOn_walkEnd n w (by exact hu) (by exact h1) (by exact h2) (by exact hw)
      | some g => exact carryOn_post n _ _ (by exact hu)
    | unbuilt =>
      simp only [reduceCtorEq, if_false]
      cases w with
      | validate =>
        obtain ⟨code, hw⟩ := hw rfl
        exact carryOn_walkLimit_validate _ code (by exact h1) (by exact h2) (by exact hw)
      | gather => exact carryOn_walkLimit_gather n (by exact hu)
    | rebuilding =>
      simp only [reduceCtorEq, if_false]
      cases w with
      | validate =>
        obtain ⟨code, hw⟩ := hw rfl
        exact carryOn_walkLimit_validate _ code (by exact h1) (by exact h2) (by exact hw)
      | gather => exact carryOn_walkLimit_gather n (by exact hu)
    | limit =>
      simp only [reduceCtorEq, if_false]
      cases w with
      | validate =>
        obtain ⟨code, hw⟩ := hw rfl
        exact carryOn_walkLimit_validate _ code (by exact h1) (by exact h2) (by exact hw)
      | gather => exact carryOn_walkLimit_gather n (by exact hu)

/-- The walk of a table has a first field. -/
theorem walkFields_cons (n : Nat) (m : Bool) (table : List Entry) : ∃ g gs, walkFields n m table = g :: gs := by
  unfold walkFields
  cases table with
  | nil => exact ⟨_, _, rfl⟩
  | cons e r => cases r with
    | nil => exact ⟨_, _, rfl⟩
    | cons e' r => exact ⟨_, _, rfl⟩

/-- The validation walk begins (R150, R151). -/
theorem carryOn_walkBegun (n : Nat) (code : Byte) {u : SetupBlock} {s : State} (hu : s.setup.active = some u)
    (h1 : s.inHand = none) (h2 : s.processorInFlight = false) (hw : s.composer.work = .token (.key code)) :
    carryOn (n + 1) (startWalk .validate (releaseRange s)) = walkBegun s := by
  rw [releaseRange_alone s h1 h2]
  unfold startWalk selectStep selectField walkBegun
  obtain ⟨g, gs, hg⟩ := walkFields_cons s.formN s.map.modified s.map.table
  have hl : s.liveFields = g :: gs := hg
  cases hm : s.map.state with
  | current =>
    simp only [if_true]
    have hl' : State.liveFields { s with
        heldRange := .empty, posting := none, composer.posted := .empty, composer.lastHandled := none } = g :: gs := hl
    simp only [hl', hl, List.head?_cons]
    exact carryOn_post n _ _ (by exact hu)
  | unbuilt =>
    simp only [reduceCtorEq, if_false]
    exact (carryOn_walkLimit_validate _ code (by exact h1) (by exact h2) (by exact hw)).trans (refusedAt_released _ _ s)
  | rebuilding =>
    simp only [reduceCtorEq, if_false]
    exact (carryOn_walkLimit_validate _ code (by exact h1) (by exact h2) (by exact hw)).trans (refusedAt_released _ _ s)
  | limit =>
    simp only [reduceCtorEq, if_false]
    exact (carryOn_walkLimit_validate _ code (by exact h1) (by exact h2) (by exact hw)).trans (refusedAt_released _ _ s)

/-- MODIFIED is set, and the rest of the work follows (R131). -/
theorem carryOn_markModified (n : Nat) (f : Field) (rest : List Op) (done : State → State) {u : SetupBlock} {s : State}
    (hu : s.setup.active = some u) (hf : s.composer.field = some f)
    (hd : ∀ m, carryOn (n + 1) (setTodo rest { s with map.modified := m }) = done { s with map.modified := m }) :
    carryOn (n + 1) (markModified (setTodo rest s)) = modifiedThen u f rest done s := by
  unfold markModified modifiedThen
  have hh : heldField (setTodo rest s) = f := by simp [heldField, setTodo, hf]
  rw [hh]
  cases f.mark with
  | none => exact hd true
  | some m =>
    simp only
    by_cases hm : isModified f.word = true
    · simp only [hm, if_true]; exact hd s.map.modified
    · simp only [hm]
      exact carryOn_write n m _ rest (s := s) hu

/-- A refusal depends on nothing that the end of the work sets. -/
theorem refusedAt_congr (x : Nat) (c : ErrorCode) (a b : State) (h : a.lock = b.lock)
    (hh : ({ a with heldRange := .empty, posting := none, composer := idleWith x a.composer.insertMode a.composer } : State) =
      { b with heldRange := .empty, posting := none, composer := idleWith x b.composer.insertMode b.composer }) :
    refusedAt x c a = refusedAt x c b := by
  unfold refusedAt
  by_cases hl : b.lock = .opened
  · rw [if_pos hl, if_pos (h.trans hl)]
    have e : ∀ y : State,
        workEnded x { y with
            lock := .error c, tone := true, timer.toneCompare := some (y.timer.counter + 1000#16) } =
          { ({ y with heldRange := .empty, posting := none,
                      composer := idleWith x y.composer.insertMode y.composer } : State) with
            lock := .error c, tone := true,
            timer.toneCompare :=
              some (({ y with heldRange := .empty, posting := none,
                              composer := idleWith x y.composer.insertMode y.composer } : State).timer.counter +
                1000#16) } := fun _ => rfl
    rw [e, e, hh]
  · rw [if_neg hl, if_neg (fun q => hl (h.symm.trans q))]
    exact hh

/-- The beginning of the validation walk takes the place of what was left to do. -/
theorem walkBegun_setTodo (s : State) : walkBegun (setTodo [] s) = walkBegun s := by
  unfold walkBegun
  obtain ⟨g, gs, hg⟩ := walkFields_cons s.formN s.map.modified s.map.table
  have hl : s.liveFields = g :: gs := hg
  have hl' : (setTodo [] s).liveFields = g :: gs := hg
  rw [hl, hl']
  by_cases hm : s.map.state = .current
  · rw [if_pos hm, if_pos (by exact hm)]; rfl
  · rw [if_neg hm, if_neg (by exact hm)]; exact refusedAt_congr _ _ _ _ rfl rfl

/-- When the hold is made the token's own work runs, the live table the working table (R127). -/
theorem holdMadeBy_runs {r : HeldRange} {k : Cont} {s : State} {f : Field} (hm : holdMadeBy k f s) :
    runCont k (setTodo [] (rangeTaken r s)) = heldWork (setTodo [] (holdOn f (rangeTaken r s))) := by
  obtain ⟨hl, hk⟩ := hm
  rcases hk with ⟨m, l, w, rfl, hh⟩ | ⟨rfl, hf, hw⟩
  · show holdTaken m l w (setTodo [] (rangeTaken r s)) = _
    have hl' : (setTodo [] (rangeTaken r s)).lookup (setTodo [] (rangeTaken r s)).composer.cursor = some f := hl
    unfold holdTaken
    rw [hl']
    dsimp only
    rw [if_pos]
    · rfl
    · rcases hh with rfl | ⟨rfl, rfl⟩ <;> simp
  · show heldWork (setTodo [] (rangeTaken r s)) = _
    congr 1
    cases s with | _ => simp_all [setTodo, rangeTaken, holdOn]

/-- What follows exit processing that succeeded (R134, R136, R142, R143, R150). -/
theorem carryOn_exitSucceeded (f : Field) (next : ExitNext) {u : SetupBlock} {s : State} (code : Byte)
    (hu : s.setup.active = some u) (h1 : s.inHand = none) (h2 : s.processorInFlight = false) (hf : s.composer.field = some f)
    (hw : s.composer.work = .token (.key code)) (n : Nat) :
    carryOn (n + 2) (exitSucceeded next (setTodo [] s)) = exitFollowed u f next s.workingFields s := by
  have hN : s.formN = formSize u := by simp [State.formN, hu]
  have hmv : ∀ m d (y : State), y.composer.work = s.composer.work → y.setup = s.setup → y.inHand = none →
      y.processorInFlight = false → carryOn m (endWork (setCursor d y)) = workEnded (d % formSize u) y := by
    intro m d y a b c e
    rw [endWork_key _ code (by exact c) (by exact e) (by exact a.trans hw)]
    rw [carryOn_nil _ (by rfl)]
    show workEnded (d % y.formN) _ = _
    have : y.formN = formSize u := by simp [State.formN, b, hu]
    rw [this]; rfl
  cases next with
  | advance x =>
    show carryOn _ (endWork (setCursor (tabDest s.formN s.workingFields x) (setTodo [] s))) = _
    refine (hmv _ _ _ (by rfl) (by rfl) (by exact h1) (by exact h2)).trans ?_
    rw [hN]; rfl
  | move d =>
    show carryOn _ (endWork (setCursor d (setTodo [] s))) = _
    refine (hmv _ _ _ (by rfl) (by rfl) (by exact h1) (by exact h2)).trans ?_; rfl
  | field x =>
    show carryOn _ (setTodo [.call .setModified, .call (.moveTo (tabDest s.formN s.workingFields x))] s) = _
    rw [carryOn_call (n + 1) (k := .setModified) (rest := [.call (.moveTo (tabDest s.formN s.workingFields x))]) rfl]
    rw [hN]
    exact carryOn_markModified n f _ _ (s := s) hu hf (fun m => by
        rw [carryOn_call n (k := .moveTo _) (rest := []) rfl]
        show carryOn n (endWork (setCursor _ _)) = _
        refine (hmv _ _ _ (by rfl) (by rfl) (by exact h1) (by exact h2)).trans ?_; rfl)
  | send =>
    show carryOn _ (startWalk .validate (releaseRange (setTodo [] s))) = _
    refine (carryOn_walkBegun (n + 1) code (u := u) (s := setTodo [] s) (by exact hu) (by exact h1) (by exact h2)
      hw).trans ?_
    rw [walkBegun_setTodo]
    rfl

end Sys2Proof.Machine
end

