-- ==== Sys2Proof/Laws/Release.lean ====
section
/-! SUPPORT. A transfer decided anew (R52, R54): what its decision reads, and a release as an arrival. -/

namespace Sys2Proof.Machine

/-- The decision does not read the hand. -/
theorem takeIn_hand (t : Transfer) (s : State) (h : Option InHand) : takeIn t { s with inHand := h } = takeIn t s := by
  have hd : decideTransfer { s with inHand := h } t = decideTransfer s t := rfl
  unfold takeIn
  rw [hd]
  cases decideTransfer s t <;> rfl

/-- A transfer in hand that is not granted is decided anew (R52). -/
theorem decideAnew_takeIn {s : State} {t : Transfer} {st : Standing} (h : s.inHand = some ⟨t, st⟩)
    (hg : st ≠ .granted) : decideAnew s = takeIn t s := by
  unfold decideAnew
  rw [h]
  cases st with
  | granted => exact absurd rfl hg
  | waiting r => rfl
  | held w => rfl

/-- A posting taken with such a transfer in hand decides it under the new range (R53, R54). -/
theorem takePosting_takeIn {s : State} {t : Transfer} {st : Standing} {r : HeldRange} (h : s.inHand = some ⟨t, st⟩)
    (hg : st ≠ .granted) : takePosting r s = takeIn t { s with inHand := none, heldRange := r, posting := none } := by
  unfold takePosting
  rw [decideAnew_takeIn (st := st) (by exact h) hg]
  exact (takeIn_hand t { s with heldRange := r, posting := none } none).symm

/-- Deciding a transfer leaves the composer's work as it was. -/
theorem takeIn_composer (t : Transfer) (s : State) : (takeIn t s).composer = s.composer := by
  unfold takeIn carryDecision
  split <;> try rfl
  unfold reportReadEffect
  repeat' split
  all_goals rfl

/-- The posting the composer awaits is taken with a transfer in hand: the transfer is decided under the new range and the
composer goes on (R53, R54). -/
theorem postingTaken_takeIn {s : State} {t : Transfer} {st : Standing} {r : HeldRange} {rest : List Op}
    (h : s.inHand = some ⟨t, st⟩) (hg : st ≠ .granted) (hp : s.posting = some r)
    (ht : s.composer.todo = .post r :: rest) :
    postingTaken s = resume (setTodo rest (takeIn t { s with inHand := none, heldRange := r, posting := none })) := by
  unfold postingTaken
  rw [hp]
  simp only [takePosting_takeIn h hg, takeIn_composer]
  rw [ht]

/-- Nor does it read the status pass. -/
theorem takeIn_status (t : Transfer) (s : State) (l : List (Nat × Word)) (r : Bool) (c : Option PortTransfer) :
    besidesStatus (takeIn t { s with report.statusLeft := l, report.updateRequested := r, reportClaim := c }) =
      besidesStatus (takeIn t s) := by
  have hd : decideTransfer { s with report.statusLeft := l, report.updateRequested := r, reportClaim := c } t =
      decideTransfer s t := rfl
  unfold takeIn
  rw [hd]
  cases decideTransfer s t with
  | report i =>
    unfold carryDecision reportReadEffect
    dsimp only
    split
    · rfl
    · split <;> rfl
  | hold why => rfl
  | route r => rfl
  | suppress => rfl
  | masked => rfl

theorem claimsJoined_takeIn (t : Transfer) {s : State} (h : claimsJoined s) : claimsJoined (takeIn t s) :=
  claimsJoined_outside (outside_takeIn t s) h

/-- A state is, but for the status pass, another with the pass's three fields replaced. -/
theorem status_fields {s t : State} (h : besidesStatus t = besidesStatus s) :
    ∃ l r c, t = { s with report.statusLeft := l, report.updateRequested := r, reportClaim := c } := by
  refine ⟨t.report.statusLeft, t.report.updateRequested, t.reportClaim, ?_⟩
  have e : t =
      { besidesStatus t with
        report.statusLeft := t.report.statusLeft, report.updateRequested := t.report.updateRequested
        reportClaim := t.reportClaim } := rfl
  rw [h] at e
  exact e

/-- An event whose effect takes the transfer in to what it makes of an empty hand: the transfer is decided anew as if it
arrived then. -/
theorem event_arrivedAt {c : Instr} {can : Bool} {f : State → State} {s s0 : State} {t : Transfer} (hc : can = true)
    (he : exec c s = event can f s) (he0 : exec c { s with inHand := none } = event can f { s with inHand := none })
    (hf0 : f { s with inHand := none } = s0) (hn : s0.inHand = none) (hf : f s = takeIn t s0) (hj : claimsJoined s0) :
    ∃ x x0, exec c s = .next x ∧ exec c { s with inHand := none } = .next x0 ∧ arrivedAt t x0 x := by
  refine ⟨_, _, he.trans (event_true _ _ _ hc), he0.trans (event_true _ _ _ hc), _, event_true _ _ _ ?_, ?_⟩
  · have e := congrArg State.inHand (besidesQueue_settle { s with inHand := none } (f { s with inHand := none }))
    have e : (settle { s with inHand := none } (f { s with inHand := none })).inHand = s0.inHand := by
      rw [hf0] at e ⊢; exact e
    rw [e, hn]; rfl
  · rw [hf, hf0, besidesStatus_settle_id _ _ (claimsJoined_takeIn t hj)]
    obtain ⟨l, r, c, hq⟩ := status_fields (besidesStatus_settle_id { s with inHand := none } _ hj)
    rw [hq, besidesStatus_settle_id _ _ (claimsJoined_takeIn t (by exact hj))]
    exact (takeIn_status t _ l r c).symm

end Sys2Proof.Machine
end

