-- ==== Sys2Proof/Laws/Slots.lean ====
section
/-! SUPPORT. Reading a slot after a slot has been replaced; the end of a work whose range is free. -/

namespace Sys2Proof.Machine

theorem getSlot_setSlot (v : Slots) (i j : Fin 4) (x : ScanSlot) :
    getSlot (setSlot v i x) j = if j = i then x else getSlot v j := by
  fin_cases i <;> fin_cases j <;> simp [getSlot, setSlot]

@[simp] theorem setSlot_getSlot (v : Slots) (i : Fin 4) : setSlot v i (getSlot v i) = v := by fin_cases i <;> rfl

/-- The lowest FREE slot is FREE, and every lower one is not. -/
theorem lowestFree_some (v : Slots) (i : Fin 4) (h : lowestFree v = some i) :
    (getSlot v i).state = .free ∧ ∀ j < i, (getSlot v j).state ≠ .free := by
  simp only [lowestFree, List.find?_cons, List.find?_nil] at h
  cases h0 : (getSlot v 0).state == .free <;> cases h1 : (getSlot v 1).state == .free <;>
    cases h2 : (getSlot v 2).state == .free <;> cases h3 : (getSlot v 3).state == .free <;>
    simp only [h0, h1, h2, h3] at h <;> simp at h h0 h1 h2 h3 <;> subst h <;> refine ⟨by assumption, ?_⟩ <;>
    intro j hj <;> fin_cases j <;> simp_all

theorem lowestFree_none (v : Slots) : lowestFree v = none ↔ ∀ i, (getSlot v i).state ≠ .free := by
  simp [lowestFree, List.find?_eq_none, Fin.forall_fin_succ]

/-- EMPTY posted with no range held or posted changes only what the composer has posted (R53). -/
theorem releaseRange_free (s : State) (h1 : s.heldRange = .empty) (h2 : s.posting = none) :
    releaseRange s = { s with composer.posted := .empty } := by simp [releaseRange, h1, h2]

end Sys2Proof.Machine
end

