-- ==== Sys2Proof/Laws/Writes.lean ====
section
/-! SUPPORT. A word write row on an idle bus (log 10): what it does to every part of the state, once for every row. -/

namespace Sys2Proof.Machine

/-- What besidesStatus does not see of a state, put back. -/
theorem of_besidesStatus {t x : State} (h : besidesStatus t = besidesStatus x) :
    ∃ l r c, t = { x with report.statusLeft := l, report.updateRequested := r, reportClaim := c } := by
  refine ⟨t.report.statusLeft, t.report.updateRequested, t.reportClaim, ?_⟩
  have e : t = { besidesStatus t with
    report.statusLeft := t.report.statusLeft, report.updateRequested := t.report.updateRequested,
    reportClaim := t.reportClaim } := rfl
  rw [h] at e
  exact e

/-- A word write that no block's form area takes in: the word is in memory, ready is given, and the report unit and
the setup unit are told. -/
theorem wordWriteRow_runs (i : Option (Fin 32)) (a : WordAddr) (cls : AccessClass) (v : Word) (s : State)
    (h : writeRuns i a cls v s) (hform : ∀ u, s.setup.active = some u → formPos u a = none) :
    wordWriteRow i a cls v s =
      .next (settle s (takeOwedEmpty (watchApply a .word v (handReport i v (afterWrite a v s))))) := by
  obtain ⟨hj, hv, hc, hi, hp, hpo, hg, hd⟩ := h
  have h1 : carriesWrite i a v s = false := by simp [carriesWrite, hp]
  have h2 : writeThrough { addr := a, lanes := .word, cls := cls, access := .write v } s =
      takeOwedEmpty (watchApply a .word v (handReport i v (afterWrite a v s))) := by
    unfold writeThrough
    simp only [takeIn, hd, carryDecision, portGrant, processorClaim]
    have hf : processorFirst
        { s with
          inHand := some ⟨{ addr := a, lanes := .word, cls := cls, access := .write v }, .waiting (.pass i)⟩
          answer := none } = true := by
      simp only [processorFirst, internalClaim] at *
      rcases hg with hg | hg
      · simp [hg]
      · rw [hg]; simp
    rw [if_pos hf]
    simp only [grantProcessor, grantedTransfer, issuedOp, transferDone, processorDone, portDone, memAfter, giveReady,
      leaveHand, answerOf, tellBlocks]
    simp only [Bool.false_eq_true, if_false, if_true]
    congr 1
    congr 1
    congr 1
    have hl : learnWrite a (afterWrite a v s) = afterWrite a v s := by
      unfold learnWrite
      cases hu : s.setup.active with
      | none => simp [afterWrite, hu]
      | some u => simp [afterWrite, hu, hform u hu]
    rw [← hl]
    congr 1
    simp only [afterWrite, hi, hp, internalClaim]
    congr 1
  unfold wordWriteRow
  simp only [h1]
  have hb : busOpen s = true := by
    simp only [busOpen, hi, hp, processorFirst]
    rcases hg with hg | hg
    · simp [hg]
    · simp [hg]
  simp [hb, hd, event, h2]

theorem reportWrite_keeps_setup (i : Fin 32) (v : Word) (s : State) : (reportWrite i v s).setup = s.setup := by
  unfold reportWrite
  repeat' split
  all_goals first | rfl | skip
  · unfold directiveWrite; split
    all_goals first | rfl | (unfold directiveWrite.acceptDirective; simp only; split <;> rfl)
  all_goals (unfold reportWrite.clearIf; split <;> rfl)

/-- A word write to report word i under the active setup. -/
theorem reportWriteRow_runs (i : Fin 32) (u : SetupBlock) (cls : AccessClass) (v : Word) (s : State)
    (hu : s.setup.active = some u) (h : writeRuns (some i) (reportAddr u i.val) cls v s) :
    reportWriteRow i cls v s =
      .next (settle s (takeOwedEmpty (reportWrite i v (afterWrite (reportAddr u i.val) v s)))) := by
  unfold reportWriteRow
  rw [hu]
  have ha := report_apart _ u (h.2.1.1 u hu) i.val i.isLt
  simp only
  rw [wordWriteRow_runs _ _ _ _ _ h (by intro u' hu'; rw [hu] at hu'; cases hu'; exact ha.1)]
  have hw : ∀ x : State, x.setup = s.setup → watchApply (reportAddr u i.val) .word v x = x := by
    intro x hx
    simp [watchApply, hx, ha.2]
  rw [hw]
  · rfl
  · exact reportWrite_keeps_setup i v _

end Sys2Proof.Machine
end

