-- ==== Sys2Proof/WellFormed.lean ====
section
/-! DEFINITION. Which operands a command may carry: the conditions the table's rows put on them. -/

namespace Sys2Proof

/-- The directive codes 01h..09h of R172. -/
def knownDirectiveCode (code : Byte) : Bool := 1 ≤ code.toNat && code.toNat ≤ 9

/-- The report words a word write to which the report unit acts on (R170): 5, 6, 10..14 and 16. -/
def reportWordActs (word : Fin 32) : Bool :=
  word.val == 5 || word.val == 6 || (10 ≤ word.val && word.val ≤ 14) || word.val == 16

/-- A command is well formed when its operands are those of its row: DIRECTIVE_INTAKE carries a known
directive code in its low byte and UNKNOWN_DIRECTIVE an unknown one (R173), REPORT_WORD_WRITE names a
word with no action of its own (R170), and APPLY_REQUEST carries a nonzero value (R193). -/
def Instr.wellFormed : Instr → Bool
  | .directiveIntake _ v => knownDirectiveCode (v.setWidth 8)
  | .unknownDirective _ v => !knownDirectiveCode (v.setWidth 8)
  | .reportWordWrite _ i _ => !reportWordActs i
  | .applyRequest _ v => v != 0#16
  | _ => true

end Sys2Proof
end

