-- ==== Sys2Proof/Tests/Slice0.lean ====
section
/-! SUPPORT. Tests of the commands on small states, and for every obligation with hypotheses states that meet them,
clause by clause. -/

namespace Sys2Proof.Tests

open Sys2Proof Sys2Proof.Machine

/-! ### A small configuration: R = 2, C = 8, no status row, ENFORCE and hidden masking on, all causes enabled -/

/-- SCREEN at 100000h, RETURN at 100400h, REPORT at 100200h, each of 512 bytes and every class. -/
def block : SetupBlock :=
  [0x0208#16, 0x0006#16, 0x0001#16, 0x0800#16, 0x000F#16, 0x0002#16, 0x0802#16, 0x000F#16, 0x0003#16, 0x0801#16,
   0x000F#16, 0x0000#16, 0x0000#16, 0x0000#16, 0x0010#16, 0x00FF#16, 0x0013#16, 0x000D#16, 0x00C8#16, 0x0000#16]

/-- Marks at 0 (any), 4 (protected, hidden) and 8 (numeric, modified). -/
def table : List Entry := [⟨0, 0x8000#16⟩, ⟨4, 0xC010#16⟩, ⟨8, 0x9100#16⟩]

def memory : Memory := table.foldl (fun m e => writeLanes m (cellAddr block e.pos) .word e.word) []

/-- The block active, the map CURRENT, the lock OPEN, the cursor at 1. -/
def base : State :=
  { State.reset with
    mem := memory
    setup := { State.reset.setup with state := .active, active := some block }
    map := { state := .current, table := table, scanPoint := 16, modified := false }
    lock := .opened
    composer.cursor := 1 }

def after (c : Instr) (s : State) : State :=
  match exec c s with
  | .next t => t
  | .fault f => nomatch f
  | .refused _ => s

def withToken (t : Token) (s : State) : State :=
  { s with
    composer.engine := if isSendToken t then .send else .token
    composer.work := .token t
    composer.workingTable := some s.map.table }

def withDirective (d : Directive) (op : Word) (s : State) : State :=
  { s with
    report.intake := { state := .pending, code := directiveCode d, operand := op, completion := .none, overlap := false } }

def onPort (o : Owner) (a : WordAddr) (op : MemOp) (s : State) : State :=
  { s with port := some { owner := o, addr := a, op := op, orphan := false } }

def locked (l : Lock) (s : State) : State := { s with lock := l }
def limited (s : State) : State := { s with map.state := .limit, map.table := [] }
def unformatted (s : State) : State := { s with map.table := [], mem := [] }
def atCursor (x : Nat) (s : State) : State := { s with composer.cursor := x }
def readOf (a : WordAddr) : Transfer := { addr := a, lanes := .word, cls := .nd, access := .read }
def writeOf (a : WordAddr) (v : Word) : Transfer := { addr := a, lanes := .word, cls := .nd, access := .write v }
/-- A queue with every place taken. -/
def fullQueue (s : State) : State := { s with queue := List.replicate 32 (.key 0x41#8) }

/-- The setup is accepted under strap 0. -/
theorem test_block_is_valid : validate 0#4 block = 0x0001#16 := by decide

theorem base_valid (s : State) (h : s.setup.active = some block) (hk : s.setup.strap = 0#4)
    (hc : s.coldAsserted = false) : setupValid s := by
  refine ⟨fun u hu => ?_, fun h => absurd h (by simp [hc]), fun hn => by simp [h] at hn⟩
  rw [h] at hu; cases hu; rw [hk]; exact test_block_is_valid

/-! ### Ill-formed operands are refused -/

theorem test_wf_directive_code : Instr.wellFormed (.directiveIntake .nd 0x000A#16) = false := by decide
theorem test_wf_unknown_code : Instr.wellFormed (.unknownDirective .nd 0x0101#16) = false := by decide
theorem test_wf_report_word : Instr.wellFormed (.reportWordWrite .nd 16 0x0000#16) = false := by decide
theorem test_wf_apply_value : Instr.wellFormed (.applyRequest .nd 0x0000#16) = false := by decide
theorem test_wf_accepts :
    Instr.wellFormed (.directiveIntake .nd 0x0109#16) = true ∧ Instr.wellFormed (.unknownDirective .nd 0#16) = true ∧
      Instr.wellFormed (.reportWordWrite .nd 0 0#16) = true ∧ Instr.wellFormed (.applyRequest .nd 1#16) = true := by
  decide

/-! ### No word spells a command -/

theorem test_decode_none : decodeTableWord 16 0x1234 = none ∧ base.withFetchWord 16 0x1234 = base := by decide

/-! ### One command, one step -/

theorem test_coldReset :
    (after .coldReset base).setup.active = none ∧ (after .coldReset base).mem = memory ∧
      (after .coldReset base).lock = .system .start := by decide
theorem test_coldResetEnd : (after (.coldResetEnd 5#4) (after .coldReset base)).setup.strap = 5#4 := by decide
theorem test_warmReset :
    (after .warmReset (fullQueue base)).lock = .system .start ∧ (after .warmReset (fullQueue base)).queue.length = 32 ∧
      (after .warmReset base).setup = base.setup := by decide

theorem test_processorTransfer_suppressed :
    let t := after (.processorTransfer (writeOf (cellAddr block 0) 0x0041#16)) base
    t.answer = some .written ∧ t.mem = memory ∧ t.report.pending = 0x20#8 ∧ t.report.counters.suppress = 1#16 ∧
      t.attn = true := by decide
theorem test_processorTransfer_masked :
    (after (.processorTransfer (readOf (cellAddr block 5))) base).answer = some (.word 0x0020#16) ∧
      (after (.processorTransfer (readOf (cellAddr block 2))) base).inHand =
        some ⟨readOf (cellAddr block 2), .waiting (.pass none)⟩ := by decide
theorem test_memoryPortGrant :
    let s := after (.processorTransfer (writeOf (cellAddr block 2) 0x0041#16)) base
    (after .memoryPortGrant s).port =
      some { owner := .processor none false true, addr := cellAddr block 2, op := .write .word 0x0041#16, orphan := false } := by
  decide
theorem test_processorTransferCompletion :
    let s := onPort (.processor none false true) (cellAddr block 2) (.write .word 0x8100#16) base
    readWord (after .processorTransferCompletion s).mem (cellAddr block 2) = 0x8100#16 ∧
      (after .processorTransferCompletion s).map.table = [⟨0, 0x8000#16⟩, ⟨2, 0x8100#16⟩, ⟨4, 0xC010#16⟩, ⟨8, 0x9100#16⟩] := by
  decide
/-- A mark word replaced with HIDDEN set while an ND read of its field waits: the read is answered as 0020h (R15). -/
theorem test_waiting_read_masked :
    let s := { onPort (.processor none false false) (cellAddr block 0) (.write .word 0x8010#16) base with
               inHand := some ⟨readOf (cellAddr block 1), .waiting (.pass none)⟩ }
    let t := after .processorTransferCompletion s
    t.inHand = some ⟨readOf (cellAddr block 1), .waiting .maskedRead⟩ ∧
      (after .processorTransferCompletion (after .memoryPortGrant t)).answer = some (.word 0x0020#16) ∧
      (after .processorTransferCompletion
        { s with inHand := some ⟨readOf (cellAddr block 9), .waiting (.pass none)⟩ }).inHand =
        some ⟨readOf (cellAddr block 9), .waiting (.pass none)⟩ := by decide
theorem test_mergeReadCompletion :
    let s := onPort (.mergeRead .low 0x0041#16 true) (cellAddr block 8) .read base
    (after .mergeReadCompletion s).port =
      some { owner := .mergeWrite true, addr := cellAddr block 8, op := .write .word 0x9141#16, orphan := false } := by
  decide
theorem test_heldRangePosting :
    (after .heldRangePosting { base with posting := some .whole }).heldRange = .whole := by decide

theorem test_readStateWord :
    (after (.readStateWord .pd .word) base).answer = some (.word 0x000A#16) ∧
      (after (.readStateWord .pd .word) base).report.snapshot =
        [1#16, 0#16, 3#16, 0#16, 0#16, 0#16, 0#16, 0#16, 0#16, 0#16, 0#16, 0#16, 0#16, 0#16, 0#16] := by decide
theorem test_readCauseWord :
    let s := { base with report.pending := 0x21#8 }
    (after (.readCauseWord .pd .word) s).answer = some (.word 0x0021#16) ∧
      (after (.readCauseWord .pd .word) s).report.seen = 0x21#8 := by decide
theorem test_directiveIntake :
    (after (.directiveIntake .pd 0x0002#16) base).report.intake.state = .pending ∧
      readWord (after (.directiveIntake .pd 0x0002#16) base).mem (reportAddr block 5) = 0x0002#16 := by decide
theorem test_unknownDirective :
    (after (.unknownDirective .pd 0x0010#16) base).report.intake.completion = .refusedUnknown ∧
      (after (.unknownDirective .pd 0x0010#16) base).report.pending = 0x02#8 := by decide
theorem test_writeOperand : (after (.writeOperand .pd 0x1234#16) base).report.operand = 0x1234#16 := by decide
theorem test_clearCounter :
    let s := { base with report.counters.lost := 7#16, report.counters.discard := 8#16 }
    (after (.clearCounter .pd .lost) s).report.counters =
      { suppress := 0#16, lost := 0#16, discard := 8#16, scanDrop := 0#16, lineError := 0#16 } := by decide
theorem test_clearCauses :
    let s := { base with report.pending := 0x07#8, report.seen := 0x03#8 }
    (after (.clearCauses .pd 0x0001#16) s).report.pending = 0x05#8 ∧
      (after (.clearCauses .pd 0x0001#16) s).report.seen = 0#8 := by decide
theorem test_reportWordWrite :
    (after (.reportWordWrite .pd 7 0x5555#16) base).report = base.report ∧
      readWord (after (.reportWordWrite .pd 7 0x5555#16) base).mem (reportAddr block 7) = 0x5555#16 := by decide

theorem test_applyRequest :
    (after (.applyRequest .nd 1#16) State.reset).setup.state = .applying ∧
      (after (.applyRequest .nd 1#16) State.reset).setup.applyWaits = true := by decide
theorem test_applyTaken :
    let t := after .applyTaken (after (.applyRequest .nd 1#16) State.reset)
    t.composer.engine = .paused ∧ (t.setupClaim.map (·.addr)) = some (wordAddr 0x0FFFC0) := by decide
/-- Nineteen words read, the twentieth on the port. -/
def lastRead19 (b : SetupBlock) : State :=
  onPort .setupRead (setupAddr 0#4 19) .read
    { State.reset with
      mem := writeLanes [] (setupAddr 0#4 19) .word (setupWord b 19)
      composer.engine := .paused
      composer.work := .apply
      setup := { State.reset.setup with state := .applying, fetched := b.take 19 } }
theorem test_setupReadCompletion_accepts :
    let t := after .setupReadCompletion (lastRead19 block)
    t.setup.active = some block ∧ t.map.state = .rebuilding ∧ t.setup.result = some 0x0001#16 ∧
      t.timer.gapLimit = 200#16 ∧ t.report.statusLeft = [(16, 0#16)] := by decide
theorem test_setupReadCompletion_refuses :
    (after .setupReadCompletion (lastRead19 (0x2108#16 :: block.tail))).setup.result = some 0x8001#16 ∧
      (after .setupReadCompletion (lastRead19 (0x2108#16 :: block.tail))).setup.active = none := by decide
theorem test_resultWordWriteCompletion :
    let s := onPort .setupResult (setupAddr 0#4 30) (.write .word 1#16) base
    (after .resultWordWriteCompletion s).setupClaim =
      some { owner := .setupClear, addr := setupAddr 0#4 31, op := .write .word 0#16, orphan := false } := by decide
theorem test_resultEvent :
    let s := onPort .setupClear (setupAddr 0#4 31) (.write .word 0#16)
      { base with setup.result := some 0x8003#16, setup.state := .applying, setup.prior := .active,
                  composer.engine := .paused, composer.work := .apply }
    (after .resultEvent s).setup.state = .active ∧ (after .resultEvent s).composer.engine = .idle ∧
      (after .resultEvent s).report.pending = 0x80#8 := by decide
theorem test_scanReadCompletion :
    let s := onPort .mapScan (cellAddr block 0) .read
      { base with map := { state := .rebuilding, table := [], scanPoint := 0, modified := true } }
    (after .scanReadCompletion s).map =
      { state := .rebuilding, table := [⟨0, 0x8000#16⟩], scanPoint := 1, modified := false } := by decide

theorem test_keyboardFrame :
    (after (.keyboardFrame 0x41#8 false false) base).queue = [.key 0x41#8] ∧
      (after (.keyboardFrame 0x41#8 false false) (fullQueue base)).holding = some ⟨0x41#8, 0#16⟩ := by decide
theorem test_keyboardFrame_bad :
    (after (.keyboardFrame 0x41#8 true false) base).report.counters.lineError = 1#16 ∧
      (after (.keyboardFrame 0x90#8 false false) base).queue = [] := by decide
theorem test_scannerFrame :
    (after (.scannerFrame 0x31#8 false false) base).collecting = .collecting 0 ∧
      (after (.scannerFrame 0x31#8 false false) base).slots.s0.chars = [0x31#8] := by decide
/-- A scan of one character in slot 0, its gap compare due. -/
def scanning : State :=
  { base with
    collecting := .collecting 0
    slots := { State.reset.slots with s0 := { ScanSlot.cold with state := .collecting, chars := [0x31#8] } }
    timer := { State.reset.timer with counter := 9#16, gap := some 9#16 } }
theorem test_gapCompareExpiry :
    (after .gapCompareExpiry scanning).queue = [.scan 0] ∧ (after .gapCompareExpiry scanning).slots.s0.stamp = some 9#16 ∧
      (after .gapCompareExpiry scanning).collecting = .none := by decide
theorem test_scannerFrame_terminator :
    (after (.scannerFrame 0x0D#8 false false) scanning).queue = [.scan 0] ∧
      (after (.scannerFrame 0x0D#8 false false) base).collecting = .none := by decide
theorem test_holdoffCompareExpiry :
    (after .holdoffCompareExpiry { base with record.valid := true, timer.holdoff := some 0#16 }).record.valid = false := by
  decide
theorem test_toneCompareExpiry :
    (after .toneCompareExpiry { base with tone := true, timer.toneCompare := some 0#16 }).tone = false := by decide
theorem test_keyingTimerTick :
    (after .keyingTimerTick { base with timer.counter := 0xFFFF#16 }).timer.counter = 0#16 := by decide
theorem test_lineSample_idle : (after (.lineSample .kbd .mark) base).keyboard.seenIdle = true := by decide
theorem test_lineSample_stop :
    let s := { base with
      keyboard := { state := .stop, seenIdle := true, run := 0, sample := 168, votes := 2, shift := 0x41#8, parityError := false } }
    (after (.lineSample .kbd .mark) s).queue = [.key 0x41#8] := by decide

theorem test_headVerdict :
    let s := { base with queue := [.key 0xC0#8, .key 0x41#8] }
    (after .headVerdict s).composer.engine = .send ∧ (after .headVerdict s).queue = [.key 0x41#8] ∧
      (after .headVerdict (locked (.system .send) s)).queue = [.key 0x41#8] ∧
      (after .headVerdict (locked (.system .send) s)).report.counters.discard = 1#16 := by decide
/-- The head leaves a full queue: the first waiting claim joins in the same event (R109). -/
theorem test_headVerdict_joins :
    let s := { fullQueue base with
               holding := some ⟨0x42#8, 0#16⟩, claimOrder := [⟨.held, false⟩, ⟨.slot 2, true⟩] }
    (after .headVerdict s).queue = List.replicate 31 (.key 0x41#8) ++ [.key 0x42#8] ∧
      (after .headVerdict s).holding = none ∧ (after .headVerdict s).claimOrder = [⟨.slot 2, true⟩] := by decide
theorem test_headVerdict_error_reset :
    (after .headVerdict { locked (.error .fieldFull) base with queue := [.key 0x8F#8] }).lock = .opened := by decide
theorem test_dataCharacter :
    (after .dataCharacter (withToken (.key 0x41#8) base)).posting = some (.span 0 3) ∧
      (after .dataCharacter (withToken (.key 0x41#8) (limited base))).lock = .error .formatLimit := by decide
/-- A data character under its hold is written, then the mark's MODIFIED. -/
theorem test_dataCharacter_held :
    let t := after .heldRangePosting (after .dataCharacter (withToken (.key 0x41#8) base))
    t.composerClaim =
      some { owner := .composer, addr := cellAddr block 1, op := .write .word 0x0041#16, orphan := false } ∧
      (after .composerTransferCompletion (after .memoryPortGrant t)).composerClaim =
        some { owner := .composer, addr := cellAddr block 0, op := .write .word 0x8100#16, orphan := false } := by decide
theorem test_arrows :
    (after .cur (withToken (.key 0x80#8) (atCursor 15 base))).composer.cursor = 0 ∧
      (after .cul (withToken (.key 0x81#8) (atCursor 0 base))).composer.cursor = 15 ∧
      (after .cuu (withToken (.key 0x82#8) base)).composer.cursor = 9 ∧
      (after .cud (withToken (.key 0x83#8) base)).composer.cursor = 9 := by decide
theorem test_movers :
    (after .hom (withToken (.key 0x84#8) base)).composer.cursor = 1 ∧
      (after .tab (withToken (.key 0x85#8) base)).composer.cursor = 9 ∧
      (after .btb (withToken (.key 0x86#8) (atCursor 3 base))).composer.cursor = 1 ∧
      (after .nln (withToken (.key 0x87#8) base)).composer.cursor = 9 := by decide
theorem test_tab_exit : (after .tab (withToken (.key 0x85#8) (atCursor 9 base))).posting = some (.span 8 7) := by decide
theorem test_bsp :
    (after .bsp (withToken (.key 0x88#8) (atCursor 2 base))).composer.cursor = 1 ∧
      (after .bsp (withToken (.key 0x88#8) base)).composer.cursor = 1 := by decide
theorem test_ins_rst :
    (after .ins (withToken (.key 0x8A#8) base)).composer.insertMode = true ∧
      (after .rst (withToken (.key 0x8F#8) { base with composer.insertMode := true })).composer.insertMode = false := by
  decide
theorem test_del :
    (after .heldRangePosting (after .del (withToken (.key 0x89#8) base))).composer.todo =
      [.read 2, .writeBack 1, .read 3, .writeBack 2, .write 3 0x0000#16, .call .setModified, .call .finish] := by decide
theorem test_eef :
    (after .heldRangePosting (after .eef (withToken (.key 0x8B#8) (atCursor 2 base)))).composer.todo =
      [.eraseCell 2, .eraseCell 3, .call .setModified, .call .finish] := by decide
theorem test_ein :
    (after .heldRangePosting (after .ein (withToken (.key 0x8C#8) base))).composer.todo.length = 3 + 7 + 1 + 1 := by
  decide
theorem test_fex :
    (after .heldRangePosting (after .fex (withToken (.key 0x8D#8) base))).composer.todo =
      [.read 1, .read 2, .read 3, .call (.exitRead (some 0) false (.field 1))] := by decide
theorem test_fmn :
    (after .heldRangePosting (after .fmn (withToken (.key 0x8E#8) base))).lock = .error .wrongCharacter ∧
      (after .heldRangePosting (after .fmn (withToken (.key 0x8E#8) (atCursor 9 base)))).composer.todo.length = 8 := by
  decide
def scanTaken (cs : List Byte) : State :=
  withToken (.scan 1)
    { base with slots := { State.reset.slots with s1 := { ScanSlot.cold with state := .taken, chars := cs } } }
theorem test_scanToken :
    (after .heldRangePosting (after .scanToken (scanTaken [0x31#8, 0x32#8]))).composer.todo =
      [.read 1, .read 2, .read 3, .call .scanRead] := by decide
theorem test_scanToken_rejected :
    let t := after .heldRangePosting (after .scanToken (scanTaken [0x31#8, 0x32#8, 0x33#8, 0x34#8]))
    t.report.counters.scanDrop = 1#16 ∧ t.slots.s1.state = .free ∧ t.lock = .opened ∧ t.tone = true := by decide
theorem test_ent :
    (after .ent (withToken (.key 0xC0#8) base)).composer.todo =
      [.post (.span 0 3), .call (.stepFirst .validate (some 0) 3)] := by decide
theorem test_f1ToF12 :
    (after .f1ToF12 (withToken (.key 0xCC#8) (atCursor 9 base))).composer.todo =
      [.post (.span 8 7), .call (.holdFirst (some 8) 7 false)] := by decide
theorem test_clr : (after .clr (withToken (.key 0xCF#8) base)).posting = some .whole := by decide
theorem test_composerTransferCompletion :
    let s := onPort .composer (cellAddr block 8) .read
      { withToken (.key 0x8B#8) base with composer.todo := [.read 8, .call .finish], heldRange := .whole }
    (after .composerTransferCompletion s).composer.engine = .idle ∧
      (after .composerTransferCompletion s).heldRange = .empty := by decide

theorem test_unlk :
    (after .unlk (withDirective .unlk 0#16 (locked (.system .send) base))).lock = .opened ∧
      (after .unlk (withDirective .unlk 1#16 (locked (.system .send) base))).posting = some (.cell 0) := by decide
theorem test_lock : (after .lock (withDirective .lock 0#16 base)).lock = .system .directive := by decide
theorem test_plcr :
    (after .plcr (withDirective .plcr 15#16 base)).composer.cursor = 15 ∧
      (after .plcr (withDirective .plcr 16#16 base)).report.intake.completion = .refusedRange := by decide
/-- A write into the RETURN window that waits for its grant is held from the gather's opening on (log 34). -/
theorem test_gather_holds_waiting_write :
    let t := after .gmod (withDirective .gmod 0#16
      { base with inHand := some ⟨{ addr := returnAddr block 3, lanes := .word, cls := .pd, access := .write 1#16 },
                                  .waiting (.pass none)⟩ })
    t.inHand = some ⟨{ addr := returnAddr block 3, lanes := .word, cls := .pd, access := .write 1#16 }, .held .gather⟩ := by
  decide
theorem test_gmod_gunp :
    (after .gmod (withDirective .gmod 0#16 base)).composer.listPhase = .opening ∧
      (after .gunp (withDirective .gunp 0#16 base)).composerClaim =
        some { owner := .composer, addr := returnAddr block 0, op := .write .word 0x8000#16, orphan := false } := by decide
theorem test_rmod : (after .rmod (withDirective .rmod 0#16 base)).posting = some (.cell 0) := by decide
theorem test_clin : (after .clin (withDirective .clin 0#16 base)).posting = some .whole := by decide
theorem test_rbld :
    (after .rbld (withDirective .rbld 0#16 base)).map.state = .rebuilding ∧
      (after .rbld (withDirective .rbld 0#16 base)).composer.engine = .paused ∧
      (after .rbld (withDirective .rbld 0#16 base)).composer.workingTable = some table := by decide
theorem test_flsh : (after .flsh (withDirective .flsh 0#16 (fullQueue base))).queue = [] := by decide
theorem test_statusWriteCompletion :
    let s := { onPort .status (cellAddr block 16) (.write .word 1#16) base with report.statusLeft := [(16, 1#16)] }
    (after .statusWriteCompletion s).report.statusLeft = [] ∧
      readWord (after .statusWriteCompletion s).mem (cellAddr block 16) = 1#16 := by decide
theorem test_attnPulseEnd :
    (after .attnPulseEnd { base with report.pulse := true }).report.pulse = false := by decide

/-- The status row of a screen of 24 columns, ERROR 02, insert mode on, the cursor at row 2, column 13. -/
theorem test_status_row :
    statusRow 24 (.error .fieldFull) true 36 =
      [0x45#16, 0x52#16, 0x52#16, 0x20#16, 0x30#16, 0x32#16, 0x20#16, 0x20#16, 0x20#16, 0x49#16, 0x4E#16, 0x53#16,
       0x20#16, 0x20#16, 0x20#16, 0x20#16, 0x20#16, 0x30#16, 0x32#16, 0x2F#16, 0x30#16, 0x31#16, 0x33#16, 0x20#16] := by
  decide

/-! ### For every obligation with hypotheses, states that meet them -/

/-- The block with normal classes alone in SCREEN's mask: a privileged transfer finds no window there. -/
def normalBlock : SetupBlock := block.set 4 0x000C#16
/-- R = 2, C = 24, the status row enabled. -/
def rowBlock : SetupBlock := (block.set 0 0x0218#16).set 1 0x0007#16
/-- Pulse mode. -/
def pulseBlock : SetupBlock := block.set 1 0x0016#16
/-- Typeahead on. -/
def aheadBlock : SetupBlock := block.set 1 0x000E#16
def withBlock (b : SetupBlock) (s : State) : State := { s with setup.active := some b }
def idleClaim : PortTransfer := { owner := .setupRead, addr := 0#23, op := .read, orphan := false }
def statusClaim : PortTransfer := { owner := .status, addr := cellAddr block 16, op := .write .word 0#16, orphan := false }
def waiting (t : Transfer) (s : State) : State := { s with inHand := some ⟨t, .waiting (.pass none)⟩ }
def granted (t : Transfer) (s : State) : State := { s with inHand := some ⟨t, .granted⟩ }
def byteWrite (a : WordAddr) (c : AccessClass) : Transfer := { addr := a, lanes := .low, cls := c, access := .write 0x0041#16 }

theorem test_blocks_are_valid :
    validate 0#4 normalBlock = 0x0001#16 ∧ validate 0#4 rowBlock = 0x0001#16 ∧ validate 0#4 pulseBlock = 0x0001#16 ∧
      validate 0#4 aheadBlock = 0x0001#16 := by decide

/-- The token's hold posted, the cursor at x. -/
def posted (c : Instr) (t : Token) (x : Nat) : State := after c (withToken t (atCursor x base))
/-- The fields of `base` at 1 and at 9. -/
def anyField : Field := { index := 0, mark := some 0, word := 0x8000#16, start := 1, len := 3 }
def numField : Field := { index := 2, mark := some 8, word := 0x9100#16, start := 9, len := 7 }
/-- The composer awaits the taking of r before k. -/
def awaited (r : HeldRange) (k : Cont) (s : State) : State :=
  { s with posting := some r, composer.todo := [.post r, .call k] }
/-- The last read of a series of n words on the port, k behind it. -/
def reading (n p : Nat) (k : Cont) (f : Field) (s : State) : State :=
  onPort .composer (cellAddr block p) .read
    { s with
      composer.field := some f, composer.todo := [.read p, .call k],
      composer.buffer := List.replicate (n - 1) 0x0041#16 }
/-- A write at p on the port, the rest behind it. -/
def writing (p : Nat) (w : Word) (rest : List Op) (f : Field) (s : State) : State :=
  onPort .composer (cellAddr block p) (.write .word w)
    { s with composer.field := some f, composer.todo := .write p w :: rest }

/-- What is left of `lastWriteDue` once the cell of the write is named. -/
theorem writing_due (p : Nat) (w : Word) (rest : List Op) (f : Field) (s : State)
    (h : claimsJoined (writing p w rest f s) ∧ memoryCanonical (writing p w rest f s) ∧ s.setup.active = some block ∧
      s.inHand = none ∧ noAbort (writing p w rest f s) ∧ s.map.state = .current ∧
      formPos block (cellAddr block p) = some p ∧ (entryAt s.map.table p).isSome = isMark w) :
    lastWriteDue block p w rest (writing p w rest f s) :=
  ⟨h.1, h.2.1, h.2.2.1, h.2.2.2.1, h.2.2.2.2.1, h.2.2.2.2.2.1, ⟨_, h.2.2.2.2.2.2.1, rfl⟩, h.2.2.2.2.2.2.2, rfl⟩

theorem reading_due (n p : Nat) (k : Cont) (f : Field) (s : State)
    (h : claimsJoined (reading n p k f s) ∧ s.setup.active = some block ∧ s.inHand = none ∧ noAbort (reading n p k f s)) :
    lastReadDue block (cellAddr block p) k (reading n p k f s) :=
  ⟨h.1, h.2.1, h.2.2.1, h.2.2.2, rfl, p, rfl⟩

theorem witness_Step : State.reset.pending = [] := rfl

theorem witness_ColdReset :
    base.coldAsserted = false ∧
      ({ base with inHand := some ⟨readOf 0#23, .held .range⟩ } : State).inHand = some ⟨readOf 0#23, .held .range⟩ ∧
      (after .coldReset base).coldAsserted = true ∧ claimsJoined (after .coldReset base) := by decide

theorem witness_WarmReset :
    claimsJoined base ∧ claimsJoined (fullQueue base) ∧ base.composer.listPhase ≠ .walking ∧
      (onPort .composer (cellAddr block 1) .read base).port.isSome = true ∧
      ({ base with report.statusLeft := [(16, 1#16)] } : State).report.statusLeft ≠ [] := by decide

def gathering (p : ListPhase) : State :=
  { withToken (.key 0xC0#8) base with composer.listPhase := p, composer.count := 2, composer.used := 11 }

theorem witness_WarmResetAborts :
    (gathering .walking).setup.active = some block ∧ (gathering .walking).composer.work = .token (.key 0xC0#8) ∧
      isSendCode 0xC0#8 = true ∧ isSendCode 0xCF#8 = true ∧ (gathering .walking).composer.listPhase = .walking ∧
      (gathering .closing).composer.listPhase = .closing ∧ (gathering .walking).port = none ∧
      (gathering .walking).composerClaim = none ∧
      (∀ w ∈ [Work.directive .gmod 0#16, .directive .gunp 7#16], sendOrGather w = true) := by decide

/-- A gather at an entry word that is claimed, or on the port at a. -/
def gatheringEntry (p : ListPhase) (rest : List Op) : State :=
  { gathering p with
    composer.todo := .list 11 0x0041#16 :: rest
    composerClaim := some { owner := .composer, addr := returnAddr block 11, op := .write .word 0x0041#16, orphan := false } }

/-- The claim waiting at a warm reset is granted and completes before the abort begins (R72, R164). -/
theorem test_warmReset_claim :
    let s := after .warmReset (gatheringEntry .walking [.call (.entryWritten 3)])
    let t := after .composerTransferCompletion { s with port := s.composerClaim, composerClaim := none }
    s.composerClaim = (gatheringEntry .walking []).composerClaim ∧ s.composer.listPhase = .walking ∧
      (after .memoryPortGrant { s with reportClaim := none }).port = s.composerClaim ∧ t.composer.listPhase = .aborting ∧
      readWord t.mem (returnAddr block 11) = 0x0041#16 ∧
      t.composer.todo = [.list 3 3#16, .list 4 14#16, .list 0 3#16, .call (.listClosed .aborted)] := by decide

theorem witness_WarmResetAborts_underWay :
    (gatheringEntry .closing []).composerClaim ≠ none ∧
    (∀ p ∈ [ListPhase.walking, .closing],
      let s := { onPort .composer (cellAddr block 9) .read (gathering p) with
                 composer.abortMark := true, composer.todo := [.read 9, .call .gatherRead] }
      claimsJoined s ∧ s.setup.active = some block ∧ s.composer.listPhase = p ∧ s.composer.work = .token (.key 0xC0#8)) ∧
    (∀ rest ∈ [[Op.list 12 0x42#16], [.call (.entryWritten 3)]],
      let s := { onPort .composer (returnAddr block 11) (.write .word 0x0041#16) (gatheringEntry .walking rest) with
                 composer.abortMark := true, composerClaim := none }
      claimsJoined s ∧ s.setup.active = some block ∧ formPos block (returnAddr block 11) = none ∧
        s.composer.todo = .list 11 0x0041#16 :: rest) := by decide

theorem witness_TransfersAreHeldAndReleased :
    (let s := { base with heldRange := .span 0 3 }
     claimsJoined s ∧ s.inHand = none ∧ s.coldAsserted = false ∧ s.setup.active = some block ∧
       formPos block (cellAddr block 0) = some 0 ∧ rangeCovers (formSize block) s.heldRange 0 = true ∧
       rangeCovers (formSize block) s.heldRange 4 = true ∧ rangeCovers (formSize block) s.heldRange 5 = false) ∧
    (let s := gathering .opening
     claimsJoined s ∧ s.inHand = none ∧ s.coldAsserted = false ∧ s.setup.active = some block ∧
       inHeldRange block s (returnAddr block 0) = false ∧ isWrite (writeOf (returnAddr block 0) 1#16) = true ∧
       s.composer.listPhase ≠ .closed ∧ windowOf block .return = some 1 ∧
       windowCovers block 1 (returnAddr block 0) = true ∧ windowCovers block 1 (returnAddr block 255) = true) ∧
    (let s := { base with map.state := .rebuilding }
     ∀ t ∈ [readOf (cellAddr block 0), writeOf (cellAddr block 15) 0#16],
       inHeldRange block s t.addr = false ∧ inGatherHold block s t = false ∧ decidingWindow block t = some 0 ∧
         (formPos block t.addr).isSome = true ∧ enforceOn block = true ∧ maskingOn block = true ∧ t.cls = .nd) ∧
    (∀ st ∈ [Standing.held .range, .waiting (.pass none)], ∀ r ∈ [HeldRange.whole, .cell 3],
      let s := { awaited r (.holdFirst (some 0) 3 false) base with inHand := some ⟨readOf (cellAddr block 3), st⟩ }
      claimsJoined s ∧ st ≠ .granted ∧ s.posting = some r ∧ s.processorInFlight = false ∧
        s.composer.todo = [.post r, .call (.holdFirst (some 0) 3 false)]) := by decide

theorem witness_TransfersThatPassWait :
    (claimsJoined State.reset ∧ State.reset.inHand = none ∧ State.reset.setup.active = none) ∧
    (let s := withBlock normalBlock base
     let a := cellAddr normalBlock 2
     s.inHand = none ∧ s.setup.active = some normalBlock ∧ s.coldAsserted = false ∧
       inHeldRange normalBlock s a = false ∧ inGatherHold normalBlock s (byteWrite a .pd) = false ∧
       decidingWindow normalBlock (byteWrite a .pd) = none ∧ isWrite (byteWrite a .pd) = true ∧
       (byteWrite a .pd).lanes ≠ .word ∧ formPos normalBlock a ≠ none ∧
       decidingWindow normalBlock { readOf 0#23 with cls := .pd } = none ∧ formPos normalBlock 0#23 = none) ∧
    (decidingWindow block (byteWrite (cellAddr block 2) .pd) = some 0 ∧ windowKind block 0 = .screen ∧
      ({ byteWrite (cellAddr block 2) .pd with cls := .pf } : Transfer).cls ≠ .nd) ∧
    (entryAt base.map.table 2 = none ∧
      (base.lookup 2).all (fun f => !(isProtected f.word && isDataOf (formSize block) f 2)) = true ∧
      isMark 0x0041#16 = false ∧ decidingWindow block (writeOf (cellAddr block 2) 0x41#16) = some 0) ∧
    (formPos block (cellAddr block 17) = none ∧ screenPos block (cellAddr block 17) = some 17 ∧ mirrorPos block = 16 ∧
      decidingWindow block (writeOf (cellAddr block 17) 0x41#16) = some 0) ∧
    ((base.lookup 4).all (fun f => !(isHidden f.word && isDataOf (formSize block) f 4)) = true ∧
      decidingWindow block (readOf (cellAddr block 4)) = some 0 ∧ maskingOn block = true) ∧
    ((limited base).map.state = .limit ∧ formPos block (cellAddr block 15) = some 15) ∧
    (decidingWindow block (readOf (returnAddr block 0)) = some 1 ∧ windowKind block 1 = .return) ∧
    (decidingWindow block (writeOf (reportAddr block 32) 1#16) = some 2 ∧ windowKind block 2 = .report ∧
      windowBase block 2 + 64 ≤ byteAddr (reportAddr block 32) ∧
      byteAddr (reportAddr block 31) = windowBase block 2 + 2 * 31) := by decide

/-- A normal write of each kind that is suppressed meets what the rule asks before the window decides. -/
def undecided (b : SetupBlock) (s : State) (t : Transfer) (w : Nat) : Bool :=
  !s.coldAsserted && decide (s.setup.active = some b) && !inHeldRange b s t.addr && !inGatherHold b s t &&
    isWrite t && isNormal t.cls && decide (decidingWindow b t = some w)

theorem witness_NormalWritesSuppressed :
    (undecided block base (writeOf (returnAddr block 0) 1#16) 1 = true ∧ windowKind block 1 = .return) ∧
    (windowKind block 0 = .screen ∧ enforceOn block = true ∧ base.map.state = .current) ∧
    (undecided block base (writeOf (cellAddr block 0) 0x41#16) 0 = true ∧ formPos block (cellAddr block 0) = some 0 ∧
      (entryAt base.map.table 0).isSome = true) ∧
    (undecided block base (writeOf (cellAddr block 5) 0x41#16) 0 = true ∧ formPos block (cellAddr block 5) = some 5 ∧
      (base.lookup 5).any (fun f => isProtected f.word && isDataOf (formSize block) f 5) = true) ∧
    (undecided block base (writeOf (cellAddr block 2) 0x8000#16) 0 = true ∧ isMark 0x8000#16 = true) ∧
    (undecided block (limited base) (writeOf (cellAddr block 15) 0x41#16) 0 = true ∧ (limited base).map.state = .limit) ∧
    (let s := withBlock rowBlock base
     undecided rowBlock s (writeOf (cellAddr rowBlock 48) 0x41#16) 0 = true ∧ statusRowOn rowBlock = true ∧
       enforceOn rowBlock = true ∧ formSize rowBlock = 48 ∧ screenPos rowBlock (cellAddr rowBlock 48) = some 48 ∧
       screenPos rowBlock (cellAddr rowBlock 71) = some 71) ∧
    (undecided block base (writeOf (cellAddr block 16) 0x41#16) 0 = true ∧
      screenPos block (cellAddr block 16) = some (mirrorPos block)) := by decide

theorem witness_SuppressedWrite :
    claimsJoined base ∧ base.inHand = none ∧ decideTransfer base (writeOf (cellAddr block 0) 0x41#16) = .suppress := by
  decide

theorem witness_SubstitutedReads :
    (claimsJoined base ∧ base.inHand = none ∧ base.coldAsserted = false ∧ base.setup.active = some block ∧
      inHeldRange block base (cellAddr block 5) = false ∧ decidingWindow block (readOf (cellAddr block 5)) = some 0 ∧
      windowKind block 0 = .screen ∧ maskingOn block = true ∧ formPos block (cellAddr block 5) = some 5 ∧
      base.map.state = .current ∧ (base.lookup 5).any (fun f => isHidden f.word && isDataOf (formSize block) f 5) = true) ∧
    (∀ i ∈ ([1, 15, 17, 18, 31] : List (Fin 32)),
      decidingWindow block (readOf (reportAddr block i.val)) = some 2 ∧ windowKind block 2 = .report ∧
        liveWordOf (windowBase block 2) (reportAddr block i.val) = some i) := by decide

/-- The vector code: level 1 first, then the lowest bit, and 0 with no enabled cause pending. -/
theorem test_vector :
    vectorCode { withBlock (block.set 15 0x80FF#16) base with report.pending := 0x81#8 } = 8 ∧
      vectorCode { base with report.pending := 0x82#8 } = 2 ∧ vectorCode base = 0 := by decide

theorem witness_Grant :
    (let s := { waiting (readOf 0#23) base with fairness := 7, setupClaim := some idleClaim }
     claimsJoined s ∧ s.port = none ∧ s.inHand = some ⟨readOf 0#23, .waiting (.pass none)⟩ ∧ s.fairness < 8) ∧
    (let s := { waiting (readOf 0#23) base with fairness := 8 }
     s.setupClaim = none ∧ s.reportClaim = none ∧ s.composerClaim = none ∧ 8 ≤ s.fairness) ∧
    (let s := { waiting (readOf 0#23) base with fairness := 8, setupClaim := some idleClaim }
     s.setupClaim = some idleClaim ∧ 8 ≤ s.fairness) ∧
    (let s := { base with reportClaim := some statusClaim }
     s.inHand = none ∧ s.setupClaim = none ∧ s.reportClaim = some statusClaim) ∧
    (let s := { base with composerClaim := some idleClaim }
     s.inHand = none ∧ s.setupClaim = none ∧ s.reportClaim = none ∧ s.composerClaim = some idleClaim) := by decide

theorem witness_ProcessorWrite :
    let tr := writeOf (cellAddr block 2) 0x41#16
    let s := onPort (.processor none false true) (cellAddr block 2) (.write .word 0x41#16) (granted tr base)
    memoryCanonical s ∧ claimsJoined s ∧ s.inHand = some ⟨tr, .granted⟩ ∧
      cellAddr block 2 ≠ setupAddr s.setup.strap 31 ∧ s.posting ≠ some .empty ∧ formPos block 0#23 = none := by decide

def manyMarks : State := { base with map.table := List.replicate 256 ⟨3, 0x8000#16⟩ }

theorem witness_Upkeep :
    setupValid (onPort .composer (cellAddr block 15) (.write .word 0x8000#16) base) ∧ memoryCanonical base ∧
      base.setup.active = some block ∧ 15 < formSize block ∧ base.map.state = .current ∧ isMark 0x8000#16 = true ∧
      base.map.table.length < 256 ∧ entryAt base.map.table 0 ≠ none ∧ isMark 0x0041#16 = false ∧
      256 ≤ manyMarks.map.table.length ∧ entryAt manyMarks.map.table 0 = none ∧ manyMarks.map.state = .current :=
  ⟨base_valid _ rfl rfl rfl, by decide, rfl, by decide, rfl, by decide, by decide, by decide, by decide,
    List.length_replicate ▸ Nat.le_refl 256,
    List.find?_eq_none.2 (fun e he => by rw [List.eq_of_mem_replicate he]; decide), rfl⟩

/-- The scan stands at 15 and the table is full; a write of the processor completes below it, at it and above it. -/
def rebuildingWrite (p : Nat) (tb : List Entry) : State :=
  onPort (.processor none false true) (cellAddr block p) (.write .word 0x8000#16)
    (granted (writeOf (cellAddr block p) 0x8000#16)
      { base with map := { state := .rebuilding, table := tb, scanPoint := 14, modified := true }, composer.work := .apply })

theorem witness_UpkeepRebuilding :
    (∀ p ∈ [13, 14, 15], p < formSize block ∧
      (rebuildingWrite p table).setup.active = some block ∧ (rebuildingWrite p table).map.state = .rebuilding ∧
      memoryCanonical (rebuildingWrite p table) ∧ claimsJoined (rebuildingWrite p table) ∧
      (rebuildingWrite p table).posting ≠ some .empty ∧ (rebuildingWrite p table).composer.work = .apply ∧
      (rebuildingWrite p table).inHand.any (fun h => decide (h.standing = .granted)) = true) ∧
    setupValid (rebuildingWrite 13 table) ∧ isMark 0x8000#16 = true ∧ table.length < 256 ∧
    256 ≤ (rebuildingWrite 13 (List.replicate 256 ⟨3, 0x8000#16⟩)).map.table.length ∧
    entryAt (List.replicate 256 (⟨3, 0x8000#16⟩ : Entry)) 13 = none :=
  ⟨by decide, base_valid _ rfl rfl rfl, by decide, by decide, List.length_replicate ▸ Nat.le_refl 256,
    List.find?_eq_none.2 (fun e he => by rw [List.eq_of_mem_replicate he]; decide)⟩

/-- A mark word replaced while a read of its field, or of another, waits. -/
theorem witness_WaitingRead :
    ∀ q ∈ [1, 0, 9],
      let s := { onPort (.processor none false false) (cellAddr block 0) (.write .word 0x8010#16) base with
                 inHand := some ⟨readOf (cellAddr block q), .waiting (.pass none)⟩ }
      s.map.state = .current ∧ s.posting ≠ some .empty ∧ s.coldAsserted = false ∧ isMark 0x8010#16 = true ∧
        entryAt s.map.table 0 ≠ none ∧ (readOf (cellAddr block q)).cls = .nd ∧ maskingOn block = true ∧
        decidingWindow block (readOf (cellAddr block q)) = some 0 ∧ windowKind block 0 = .screen ∧
        inHeldRange block s (cellAddr block q) = false ∧ formPos block (cellAddr block q) = some q := by decide

theorem witness_ProcessorRead :
    let s := onPort (.processor none true true) (cellAddr block 0) .read (granted (readOf (cellAddr block 0)) base)
    claimsJoined s ∧ s.inHand = some ⟨readOf (cellAddr block 0), .granted⟩ ∧ s.posting ≠ some .empty ∧
      isMark (readWord s.mem (cellAddr block 0)) = true ∧ isMark (readWord s.mem (cellAddr block 1)) = false := by decide

theorem witness_MergeRead :
    claimsJoined (onPort (.mergeRead .low 0x41#16 true) (cellAddr block 2) .read base) ∧ Lanes.low ≠ .word ∧
      Lanes.high ≠ .word := by decide

theorem witness_PostingIsTaken :
    (∀ k ∈ [Cont.holdFirst (some 0) 3 false, .holdFirst (some 0) 2 false, .holdWhole],
      let s := waiting (readOf (cellAddr block 4)) (awaited (.span 0 3) k (withToken (.key 0x41#8) base))
      claimsJoined s ∧ s.coldAsserted = false ∧ s.setup.active = some block ∧ s.posting = some (.span 0 3) ∧
        s.processorInFlight = false ∧ s.composer.todo = [.post (.span 0 3), .call k] ∧
        formPos block (cellAddr block 4) = some 4 ∧ rangeCovers (formSize block) (.span 0 3) 4 = true ∧
        s.lookup s.composer.cursor = some anyField) ∧
    (let s := after .dataCharacter (withToken (.key 0x20#8) base)
     s.posting = some (.span 0 3) ∧ s.processorInFlight = false ∧ s.inHand = none ∧
       s.composer.work = .token (.key 0x20#8) ∧ isDataCode 0x20#8 = true ∧ isDataCode 0x7E#8 = true ∧
       (s.lookup 1).any (fun f =>
         decide (s.composer.todo = [.post (.span 0 3), .call (.holdFirst f.mark f.len false)]) &&
           isDataOf (formSize block) f 1 && !isProtected f.word && allows (entryType f.word) 0x20#8) = true ∧
       s.composer.insertMode = false) ∧
    (let s := posted .del (.key 0x89#8) 1
     let s1 := { s with map.table := [⟨0, 0x8000#16⟩, ⟨3, 0x8000#16⟩] }
     postingDue block (.span 0 3) (.holdFirst (some 0) 3 false) s1 ∧
       (s1.lookup 1).all (fun f => decide (f.len ≠ 3)) = true ∧
       postingDue block .whole .holdWhole
         { s1 with posting := some .whole, composer.todo := [.post .whole, .call .holdWhole] } ∧
       (limited s).lookup 1 = none) ∧
    (let s := after .scanToken (scanTaken [0x31#8])
     postingDue block (.span 0 3) (.holdFirst (some 0) 3 false) (limited s) ∧ s.composer.work = .token (.scan 1)) := by
  decide

theorem witness_StateAndCauseReads :
    claimsJoined base ∧ base.inHand = none ∧ base.setup.active = some block ∧
      decideTransfer base { addr := reportAddr block 0, lanes := .word, cls := .pd, access := .read } = .report 0 ∧
      decideTransfer base { addr := reportAddr block 16, lanes := .high, cls := .nf, access := .read } = .report 16 := by
  decide

/-- A write of a privileged program runs on `base` with its report and setup units as given. -/
theorem base_writeRuns (i : Option (Fin 32)) (a : WordAddr) (v : Word) (r : ReportUnit) (st : SetupState)
    (h : decideTransfer { base with report := r, setup.state := st }
      { addr := a, lanes := .word, cls := .pd, access := .write v } = .route (.pass i)) :
    writeRuns i a .pd v { base with report := r, setup.state := st } :=
  ⟨.inl rfl, base_valid _ rfl rfl rfl, rfl, rfl, rfl, rfl, .inl (by show 0 < 8; omega), h⟩

def intakeAt (st : IntakeState) : ReportUnit := { base.report with intake.state := st }

theorem witness_DirectiveWriteTable :
    (∀ st : IntakeState, ∀ v ∈ [0x0001#16, 0x0009#16, 0x0000#16, 0x000A#16, 0x00FF#16],
      writeRuns (some 5) (reportAddr block 5) .pd v { base with report := intakeAt st, setup.state := .active }) ∧
    (1 ≤ (0x0001#16).toNat % 256 ∧ (0x0009#16).toNat % 256 ≤ 9 ∧ (0x0000#16).toNat % 256 = 0 ∧
      9 < (0x000A#16).toNat % 256 ∧ 9 < (0x00FF#16).toNat % 256) := by
  refine ⟨fun st v hv => base_writeRuns _ _ _ _ _ ?_, by decide⟩
  fin_cases hv <;> cases st <;> decide

theorem witness_OperandAndCounterWrites :
    writeRuns (some 6) (reportAddr block 6) .pd 0xFFFF#16 { base with report := base.report, setup.state := .active } ∧
    (∀ k : Counter, writeRuns (some (counterWord k)) (reportAddr block (counterWord k).val) .pd 0#16
      { base with report := base.report, setup.state := .active }) ∧
    (∀ i ∈ ([0, 4, 7, 9, 15, 17, 31] : List (Fin 32)), writeRuns (some i) (reportAddr block i.val) .pd 1#16
      { base with report := base.report, setup.state := .active }) := by
  refine ⟨base_writeRuns _ _ _ _ _ (by decide), fun k => base_writeRuns _ _ _ _ _ ?_, fun i hi => base_writeRuns _ _ _ _ _ ?_⟩
  · cases k <;> decide
  · fin_cases hi <;> decide

theorem witness_CauseWordWrite :
    writeRuns (some 16) (reportAddr block 16) .pd 0#16 { base with report := base.report, setup.state := .active } :=
  base_writeRuns _ _ _ _ _ (by decide)

theorem witness_ApplyWordWriteTable :
    (∀ st : SetupState, ∀ v ∈ [0x0000#16, 0x0001#16],
      writeRuns none (setupAddr base.setup.strap 31) .pd v { base with report := base.report, setup.state := st }) ∧
      writeRuns none (setupAddr State.reset.setup.strap 31) .nd 0xFFFF#16 State.reset := by
  refine ⟨fun st v hv => base_writeRuns _ _ _ _ _ ?_,
    ⟨.inl rfl, ⟨fun u h => (nomatch h), fun h => (nomatch h), fun _ => rfl⟩, rfl, rfl, rfl, rfl,
      .inl (by show 0 < 8; omega), by decide⟩⟩
  fin_cases hv <;> cases st <;> decide

theorem witness_ApplyFetches :
    (let s := { base with setup.applyWaits := true }
     claimsJoined s ∧ s.composer.engine = .idle ∧ s.setup.applyWaits = true) ∧
    (∀ n ∈ [0, 18], ({ lastRead19 block with setup.fetched := block.take n } : State).setup.fetched.length < 19) := by
  decide

/-- Each verdict of validation occurs, and the greatest and least geometry pass the first check. -/
theorem test_verdicts :
    validate 0#4 (block.set 0 0x2108#16) = 0x8001#16 ∧ validate 0#4 (block.set 0 0x0207#16) = 0x8001#16 ∧
      validate 0#4 (block.set 14 15#16) = 0x8003#16 ∧ validate 0#4 (block.set 3 0x0802#16) = 0x8002#16 ∧
      validate 0#4 (block.set 17 0x0080#16) = 0x8004#16 ∧ validate 0#4 (block.set 18 4#16) = 0x8005#16 ∧
      geometryFails (block.set 0 0x1920#16) = false ∧ geometryFails (block.set 0 0x19A0#16) = false ∧
      geometryFails (block.set 0 0x1AA0#16) = true ∧ geometryFails (block.set 0 0x0108#16) = false := by decide

theorem witness_LastSetupRead :
    (let s := lastRead19 (0x2108#16 :: block.tail)
     claimsJoined s ∧ s.setup.fetched.length = 19 ∧
       validate s.setup.strap (s.setup.fetched ++ [readWord s.mem (setupAddr 0#4 19)]) ≠ 0x0001#16) ∧
    (let s := lastRead19 block
     claimsJoined s ∧ s.setup.fetched.length = 19 ∧ s.inHand = none ∧ s.scanner.state = .idle ∧
       validate s.setup.strap (s.setup.fetched ++ [readWord s.mem (setupAddr 0#4 19)]) = 0x0001#16) ∧
    (let s := waiting (readOf 0#23) (lastRead19 block)
     claimsJoined s ∧ s.setup.fetched.length = 19 ∧
       validate s.setup.strap (s.setup.fetched ++ [readWord s.mem (setupAddr 0#4 19)]) = 0x0001#16 ∧
       s.inHand.any (fun h => decide (h.standing ≠ .granted)) = true) ∧
    ({ lastRead19 block with scanner.state := .data } : State).scanner.state ≠ .idle := by decide

theorem witness_Result :
    claimsJoined base ∧
    (let s := onPort .setupClear (setupAddr 0#4 31) (.write .word 0#16)
      { base with setup.result := some 0x0001#16, composer.work := .apply }
     s.composer.work = .apply ∧ s.setup.result = some 0x0001#16) ∧ base.setup.result ≠ some 0x0001#16 := by decide

def scanningMap (p : Nat) (tb : List Entry) : State :=
  onPort .mapScan (cellAddr block p) .read
    { base with map := { state := .rebuilding, table := tb, scanPoint := p, modified := true }, composer.work := .apply }

theorem witness_RebuildScan :
    (let s := scanningMap 14 []
     claimsJoined s ∧ s.setup.active = some block ∧ s.map.state = .rebuilding ∧ s.inHand = none ∧
       s.composer.work = .apply ∧ isMark (readWord s.mem (cellAddr block s.map.scanPoint)) = false ∧
       s.map.scanPoint + 1 < formSize block) ∧
    formSize block ≤ (scanningMap 15 []).map.scanPoint + 1 ∧
    (isMark (readWord (scanningMap 8 []).mem (cellAddr block 8)) = true ∧
      256 ≤ (scanningMap 8 (List.replicate 256 ⟨0, 0x8000#16⟩)).map.table.length) ∧
    (let s := { scanningMap 15 [] with
                composer.work := .directive .rbld 0#16, report := intakeAt .running,
                inHand := some ⟨readOf (cellAddr block 3), .held .rebuild⟩ }
     s.report.intake.state = .running ∧ s.composer.work = .directive .rbld 0#16 ∧
       s.inHand = some ⟨readOf (cellAddr block 3), .held .rebuild⟩) :=
  ⟨by decide, by decide, ⟨by decide, List.length_replicate ▸ Nat.le_refl 256⟩, by decide⟩

theorem witness_KeyboardFrame :
    claimsJoined base ∧ base.coldAsserted = false ∧ base.holding = none ∧ base.queue.length < 32 ∧
      claimsJoined (fullQueue base) ∧ 32 ≤ (fullQueue base).queue.length ∧
      ([0x20#8, 0x7E#8, 0x80#8, 0x8F#8, 0xC0#8, 0xCC#8, 0xCF#8].all isAssigned = true) ∧
      ([0x1F#8, 0x7F#8, 0x90#8, 0xBF#8, 0xCD#8, 0xCE#8, 0xD0#8].any isAssigned = false) := by decide

def noSlots : Slots :=
  let q : ScanSlot := { ScanSlot.cold with state := .queued }
  { s0 := q, s1 := q, s2 := q, s3 := q }

theorem witness_ScannerFrame :
    (claimsJoined base ∧ base.coldAsserted = false ∧ base.lineFormat.eight = true ∧ 0x31#8 ≠ base.terminator ∧
      base.terminator = 0x0D#8 ∧ base.lineFormat.parity = .none) ∧
    (base.collecting = .none ∧ (getSlot base.slots 0).state = .free ∧ (∀ i, (getSlot noSlots i).state ≠ .free) ∧
      (∀ j : Fin 4, j < 3 → (getSlot { noSlots with s3 := ScanSlot.cold } j).state ≠ .free) ∧
      scanning.collecting = .collecting 0 ∧ ({ base with collecting := .losing } : State).collecting = .losing) ∧
    (let s := { base with scanner.state := .recover,
                          pendingFormat := some { rate := .r4800, eight := false, parity := .even } }
     s.scanner.state = .recover ∧ (0x7F#8).toNat < 0x80 ∧
       (after (.scannerFrame 0x31#8 true false) s).lineFormat = { rate := .r4800, eight := false, parity := .even }) := by
  decide

/-- A frame row leaves line-seen-idle and the run count as its samples would (log 9). -/
theorem test_frame_after_recover :
    let s := { base with keyboard := { base.keyboard with state := .recover, run := 3 } }
    (after (.keyboardFrame 0x41#8 false false) s).keyboard.run = 16 ∧
      (after (.keyboardFrame 0x41#8 false true) base).keyboard.seenIdle = true := by decide

theorem witness_ScanJudged :
    claimsJoined scanning ∧ scanning.coldAsserted = false ∧ scanning.collecting = .collecting 0 ∧
      scanning.timer.gap = some scanning.timer.counter ∧ scanning.terminator.toNat < 0x80 ∧
      slotMarked (getSlot scanning.slots 0) = false ∧ scanning.record.valid = false ∧ scanning.queue.length < 32 ∧
      32 ≤ (fullQueue scanning).queue.length ∧
      (let s := { scanning with record := { valid := true, chars := [0x31#8] } }
       s.record.valid = true ∧ (getSlot s.slots 0).chars = s.record.chars) := by decide

theorem witness_Expiries :
    (let s := { base with timer.holdoff := some 0#16, timer.toneCompare := some 0#16 }
     claimsJoined s ∧ s.timer.holdoff = some s.timer.counter ∧ s.timer.toneCompare = some s.timer.counter) ∧
    (claimsJoined base ∧ base.coldAsserted = false ∧ base.timer.gap ≠ some base.timer.counter ∧
      base.timer.holdoff ≠ some base.timer.counter ∧ base.timer.toneCompare ≠ some base.timer.counter) ∧
    (let s := { base with timer.toneCompare := some 0#16 }
     s.timer.gap ≠ some s.timer.counter ∧ s.timer.holdoff ≠ some s.timer.counter ∧
       s.timer.toneCompare = some s.timer.counter) ∧
    (let s := { base with timer.gap := some 0#16, collecting := .losing }
     s.timer.gap = some s.timer.counter ∧ s.collecting = .losing) := by decide

def keyboardAt (st : RxState) (sample votes run : Nat) (seen : Bool) : State :=
  { base with
    keyboard :=
      { state := st, seenIdle := seen, run := run, sample := sample, votes := votes, shift := 0x41#8, parityError := false } }

def scannerAt (st : RxState) (sample votes : Nat) : State :=
  { base with
    scanner :=
      { state := st, seenIdle := true, run := 15, sample := sample, votes := votes, shift := 0x41#8, parityError := false }
    pendingFormat := some { rate := .r4800, eight := false, parity := .even } }

theorem witness_LineSamples :
    (∀ l ∈ [Line.kbd, .scn], claimsJoined base ∧ (rxOf l base).state = .idle ∧ (rxOf l base).seenIdle = false) ∧
    ((keyboardAt .idle 0 0 0 true).keyboard.seenIdle = true ∧ (keyboardAt .recover 0 0 14 true).keyboard.run + 1 ≠ 16 ∧
      (keyboardAt .recover 0 0 15 true).keyboard.run + 1 = 16 ∧ (scannerAt .recover 0 0).scanner.run + 1 = 16) ∧
    (∀ st ∈ [RxState.startCheck, .data, .parity, .stop], ∀ n ∈ [5, 6, 7, 8],
      (rxOf .scn (scannerAt st n 0)).sample + 1 ∈ [6, 7, 8, 9]) ∧
    ((scannerAt .data 120 2).scanner.sample + 1 = 16 * 7 + 9 ∧ (scannerAt .data 136 2).scanner.sample + 1 = 16 * 8 + 9 ∧
      (formatOf .scn base).eight = true ∧ (formatOf .scn base).parity = .none ∧ (formatOf .kbd base).parity = .odd) ∧
    ((scannerAt .stop 168 0).scanner.votes + 1 < 2 ∧ (scannerAt .stop 168 1).scanner.votes + 1 = 2 ∧
      (scannerAt .stop 168 1).scanner.parityError = false) ∧
    (base.coldAsserted = false ∧ (keyboardAt .data 22 0 0 true).keyboard.sample = 16 * 1 + 6 ∧
      (keyboardAt .data 118 0 0 true).keyboard.sample = 16 * 7 + 6 ∧ (keyboardAt .stop 168 2 0 true).keyboard.sample % 16 = 8 ∧
      (keyboardAt .stop 168 2 0 true).keyboard.votes = 2 ∧ isAssigned (keyboardAt .stop 168 2 0 true).keyboard.shift = true ∧
      base.holding = none ∧ base.queue.length < 32) := by decide

/-- A full queue with claims waiting. -/
theorem witness_HeadVerdict_full :
    ∀ cs ∈ [[⟨.held, false⟩, ⟨.slot 2, true⟩], [⟨.slot 2, false⟩, ⟨.held, true⟩]],
      let s : State := { fullQueue base with holding := some ⟨0x42#8, 0#16⟩, claimOrder := cs }
      verdictDue s ∧ claimsJoined s ∧ s.queue.length = 32 ∧ s.holding ≠ none ∧ rangeFree s ∧ s.lock = .opened := by
  decide

theorem witness_HeadVerdict :
    (let s := { base with queue := [.key 0x41#8] }
     verdictDue s ∧ s.setup.active = some block ∧ s.queue = [.key 0x41#8] ∧ s.claimOrder = [] ∧ rangeFree s ∧
       s.lock = .opened ∧ s.map.state = .current ∧ isSendCode 0x41#8 = false ∧ isSendCode 0xC0#8 = true) ∧
    (let s := { base with queue := [.scan 2] }
     verdictDue s ∧ claimsJoined s ∧ s.queue.length ≤ 32) ∧
    (let s := { limited base with queue := [.scan 2] }
     verdictDue s ∧ rangeFree s ∧ s.map.state = .limit) ∧
    (let s := { locked (.system .start) (withBlock aheadBlock base) with queue := [.key 0x80#8] }
     verdictDue s ∧ typeaheadOn aheadBlock = true ∧ typeaheadOn block = false) ∧
    (let s := { locked (.error .checkDigit) base with queue := [.key 0x8F#8] }
     verdictDue s ∧ s.lock = .error .checkDigit ∧ s.queue = [.key 0x8F#8] ∧ Token.key 0x8E#8 ≠ .key 0x8F#8) := by decide

theorem witness_Tokens :
    (claimsJoined base ∧ rangeFree base ∧ base.setup.active = some block) ∧
    (∀ c ∈ [0x80#8, 0x81#8, 0x82#8, 0x83#8, 0x84#8, 0x85#8, 0x86#8, 0x87#8, 0x88#8, 0x89#8, 0x8A#8, 0x8B#8, 0x8C#8, 0x8D#8,
        0x8E#8, 0x8F#8, 0x20#8, 0x7E#8, 0xC0#8, 0xC1#8, 0xCC#8, 0xCF#8],
      tokenTaken (.key c) (withToken (.key c) base) ∧ rangeFree (withToken (.key c) base)) ∧
    tokenTaken (.scan 3) (withToken (.scan 3) base) := by decide

theorem witness_FieldMoves :
    (let s := withToken (.key 0x85#8) base
     exitDue s.formN s.workingFields s.composer.cursor (tabDest s.formN s.workingFields s.composer.cursor) = false) ∧
    (let s := withToken (.key 0x85#8) (atCursor 9 base)
     exitDue s.formN s.workingFields s.composer.cursor (moverDest s 0x85#8 s.workingFields s.composer.cursor) = true) ∧
    (let s := withToken (.key 0x88#8) base
     (fieldAt s.workingFields s.composer.cursor).isSome = true) := by decide

theorem witness_FieldMoveDestinations :
    let fs := walkFields 16 false table
    (0 < 16 ∧ 15 < 16 ∧ (∀ f ∈ fs, f.start < 16)) ∧
    (fs.any (fun f => !isProtected f.word && 1 ≤ f.len && f.start == (15 + 2) % 16) = true ∧
      (∀ e ∈ List.range 2, 1 ≤ e → fs.all (fun f => isProtected f.word || f.start != (15 + e) % 16) = true)) ∧
    (walkFields 16 false [⟨0, 0xC000#16⟩]).all (fun f => isProtected f.word) = true ∧
    ((fieldAt fs 15).any (fun f => !isProtected f.word && 0 < offsetOf 16 f 15 && offsetOf 16 f 15 < f.len) = true ∧
      (fieldAt fs 1).any (fun f => offsetOf 16 f 1 == 0) = true) ∧
    (16 = 2 * 8 ∧ (∀ f ∈ fs, f.mark ≠ none) ∧ (walkFields 16 false []).any (fun f => f.mark.isNone) = true) ∧
    (fs.head?.any (fun f => !isProtected f.word && 1 ≤ f.len) = true) := by decide

theorem witness_TokensTakeHold :
    ((withToken (.key 0x41#8) base).lookup 1).isSome = true ∧
    (withToken (.key 0x41#8) (limited base)).lookup 1 = none ∧ rangeFree (withToken (.key 0x41#8) (limited base)) ∧
    (limited base).lock = .opened ∧
    (let s := withToken (.key 0xC0#8) (atCursor 9 base)
     (s.lookup 9).any (fun f => sendExitDue s.formN f 9) = true) := by decide

theorem witness_EraseAndSend :
    let s := withToken (.key 0xC0#8) base
    s.map.state = .current ∧ (s.lookup 1).any (fun f => !sendExitDue s.formN f 1) = true ∧ s.liveFields.length = 3 := by
  decide

theorem witness_HeldKeys :
    (∀ p ∈ [(Instr.dataCharacter, 0x20#8), (.dataCharacter, 0x7E#8), (.del, 0x89#8), (.eef, 0x8B#8), (.fex, 0x8D#8),
        (.fmn, 0x8E#8)],
      ∀ x ∈ [0, 1, 3],
        let s := posted p.1 (.key p.2) x
        postingDue block (.span 0 3) (.holdFirst (some 0) 3 false) s ∧ s.composer.work = .token (.key p.2) ∧
          s.lookup s.composer.cursor = some anyField) ∧
    (∀ p ∈ [(Instr.fmn, 0x8E#8), (.tab, 0x85#8), (.ent, 0xC0#8), (.f1ToF12, 0xCC#8)],
      let s := posted p.1 (.key p.2) 9
      postingDue block (.span 8 7) (.holdFirst (some 8) 7 false) s ∧ s.composer.work = .token (.key p.2) ∧
        s.lookup s.composer.cursor = some numField) ∧
    (isDataOf 16 anyField 1 = true ∧ isDataOf 16 anyField 3 = true ∧ isDataOf 16 anyField 0 = false ∧
      offsetOf 16 anyField 3 + 1 = anyField.len ∧ offsetOf 16 anyField 1 + 1 < anyField.len ∧
      allows (entryType 0x8000#16) 0x7E#8 = true ∧ allows (entryType 0x9100#16) 0x7E#8 = false ∧
      entryType 0x9100#16 = .numeric ∧ entryType 0x8000#16 ≠ .numeric ∧ isModified 0x9100#16 = true ∧
      isModified 0x8000#16 = false ∧ isProtected 0xC010#16 = true ∧
      isDataOf 16 numField (tabDest 16 base.liveFields 9) = false) := by decide

/-- Both ways a hold is made. -/
theorem witness_holdMade :
    holdMadeBy (.holdFirst (some 0) 3 false) anyField (posted .del (.key 0x89#8) 1) ∧
      holdMadeBy .holdNarrow anyField
        (awaited (.span 0 3) .holdNarrow
          { withToken (.key 0x89#8) base with composer.field := some anyField }) ∧
      postingDue block (.span 0 3) .holdNarrow
        (awaited (.span 0 3) .holdNarrow { withToken (.key 0x89#8) base with composer.field := some anyField }) :=
  ⟨⟨by decide, .inl ⟨_, _, _, rfl, .inr ⟨rfl, rfl⟩⟩⟩, ⟨by decide, .inr ⟨rfl, rfl, rfl⟩⟩, by decide⟩

theorem witness_HeldScan :
    (∀ cs ∈ [[0x31#8], [0x31#8, 0x32#8, 0x33#8], [0x31#8, 0x32#8, 0x33#8, 0x34#8]],
      let s := after .scanToken (scanTaken cs)
      postingDue block (.span 0 3) (.holdFirst (some 0) 3 false) s ∧ s.composer.work = .token (.scan 1) ∧
        s.lookup s.composer.cursor = some anyField ∧ (getSlot s.slots 1).chars = cs) ∧
    (let s := after .scanToken (atCursor 15 (unformatted (scanTaken [0x31#8])))
     postingDue block .whole (.holdFirst none 16 true) s ∧ (s.lookup 15).any (fun f => f.mark.isNone) = true ∧
       15 + 1 ≤ formSize block ∧ formSize block < 15 + 2) ∧
    (∀ cs ∈ [[], [0x31#8, 0x32#8, 0x33#8]],
      let s := reading 3 3 .scanRead anyField (scanTaken cs)
      (wordsWith (cellAddr block 3) s).length = anyField.len ∧ (getSlot s.slots 1).chars.length ≤ 3) ∧
    lastReadDue block (cellAddr block 3) .scanRead (reading 3 3 .scanRead anyField (scanTaken [0x31#8])) ∧
    (changedOffsets [0x41#16, 0x42#16] [0x41#16, 0x43#16] = [1] ∧ changedOffsets [0x41#16] [0x41#16] = []) ∧
    lastWriteDue block 3 0x0041#16 [.call .setModified, .call (.moveTo 9)]
      (writing 3 0x0041#16 [.call .setModified, .call (.moveTo 9)] anyField (scanTaken [0x41#8])) ∧
    lastWriteDue block 0 0x8100#16 [.call (.moveTo 9)]
      (writing 0 0x8100#16 [.call (.moveTo 9)] anyField (scanTaken [0x41#8])) :=
  ⟨by decide, by decide, by decide, reading_due _ _ _ _ _ (by decide), by decide, writing_due _ _ _ _ _ (by decide),
    writing_due _ _ _ _ _ (by decide)⟩

theorem witness_ExitProcessing :
    (∀ k ∈ [0, 6],
      let s := reading 7 15 (.exitRead (some k) true (.field 9)) numField (withToken (.key 0x8E#8) base)
      lastReadDue block (cellAddr block 15) (.exitRead (some k) true (.field 9)) s ∧
        (wordsWith (cellAddr block 15) s).length = numField.len ∧ k < numField.len) ∧
    lastReadDue block (cellAddr block 15) (.exitRead none false .send)
      (reading 7 15 (.exitRead none false .send) numField (withToken (.key 0xC0#8) base)) ∧
    lastWriteDue block 15 0x0041#16 [.call (.exitDone .send)]
      (writing 15 0x0041#16 [.call (.exitDone .send)] numField (withToken (.key 0xC0#8) base)) ∧
    lastWriteDue block 0 0x8100#16 [.call (.moveTo 9)]
      (writing 0 0x8100#16 [.call (.moveTo 9)] anyField (withToken (.key 0x8D#8) base)) ∧
    (entryType 0xB000#16 = .checked ∧ checkPasses (checkScheme 0xB000#16) [0x31#8, 0x31#8] = false) := by
  refine ⟨fun k hk => ⟨reading_due _ _ _ _ _ ?_, ?_, ?_⟩, reading_due _ _ _ _ _ (by decide), writing_due _ _ _ _ _ (by decide),
    writing_due _ _ _ _ _ (by decide), by decide⟩
  all_goals fin_cases hk <;> decide

/-- The walk is at the field of mark 8, the field of mark 4 handled. -/
def walkingAt (w : Walk) (last : Option Nat) : State :=
  awaited (.span 8 7) (.stepFirst w (some 8) 7) { withToken (.key 0xC0#8) base with composer.lastHandled := last }

theorem witness_Walks (w : Walk) :
    postingDue block (.span 8 7) (.stepFirst w (some 8) 7) (walkingAt w (some 4)) ∧
      stepMadeBy w (.stepFirst w numField.mark numField.len) numField (walkingAt w (some 4)) ∧
      selects (some anyField) (walkingAt w none) ∧ selects none (walkingAt w (some 8)) ∧
      (limited (walkingAt w (some 4))).map.state ≠ .current ∧
      postingDue block .whole (.stepWhole w) (awaited .whole (.stepWhole w) (walkingAt w (some 8))) := by
  cases w <;>
    exact ⟨by decide, .inl ⟨rfl, by decide, by decide⟩, ⟨by decide, by decide⟩, ⟨by decide, by decide⟩, by decide, by decide⟩

theorem witness_Validation :
    (∃ code, (walkingAt .validate none).composer.work = .token (.key code)) ∧
    (mustEnter 0x8000#16 = false ∧ isModified 0x9100#16 = true ∧ mustFill 0x9100#16 = false ∧
      isProtected 0x9100#16 = false ∧ mustEnter 0x8400#16 = true ∧ isModified 0x8400#16 = false ∧ mustFill 0x8300#16 = true ∧
      isModified 0x8300#16 = true) ∧
    (∀ w ∈ [0x8400#16, 0x8300#16],
      let s := { walkingAt .validate (some 4) with map.table := [⟨0, 0x8000#16⟩, ⟨4, 0xC010#16⟩, ⟨8, w⟩] }
      postingDue block (.span 8 7) (.stepFirst .validate (some 8) 7) s ∧ selects (some { numField with word := w }) s) ∧
    lastReadDue block (cellAddr block 15) .validationRead
      (reading 7 15 .validationRead numField (withToken (.key 0xC0#8) base)) :=
  ⟨⟨_, rfl⟩, by decide,
    fun w hw => by
      refine ⟨?_, ?_, ?_⟩ <;> fin_cases hw <;> decide,
    reading_due _ _ _ _ _ (by decide)⟩

theorem witness_Gather :
    (let s := gathering .walking
     (∀ op, s.composer.work ≠ .directive .gunp op) ∧ isModified numField.word = true ∧
       s.composer.used + 2 ≤ (setupWord block 14).toNat ∧
       (setupWord block 14).toNat < ({ s with composer.used := 15 } : State).composer.used + 2) ∧
    (let s := awaited (.span 8 0) (.stepFirst .gather (some 8) 0)
       { gathering .walking with
         map.table := table ++ [⟨9, 0x8000#16⟩], composer.lastHandled := some 4 }
     postingDue block (.span 8 0) (.stepFirst .gather (some 8) 0) s ∧ selects (some { numField with len := 0 }) s) ∧
    lastReadDue block (cellAddr block 15) .gatherRead (reading 7 15 .gatherRead numField (gathering .walking)) ∧
    (∀ p ∈ [ListPhase.opening, .walking],
      let s := onPort .composer (returnAddr block 4) (.write .word 5#16) (gathering p)
      claimsJoined s ∧ s.setup.active = some block ∧ formPos block (returnAddr block 4) = none ∧ s.inHand = none ∧
        noAbort s ∧ s.composer.abortMark = false ∧ s.map.state = .current ∧ s.liveFields.length = 3) :=
  ⟨⟨fun _ h => (nomatch h), by decide⟩, ⟨by decide, by decide, by decide⟩, reading_due _ _ _ _ _ (by decide), by decide⟩

theorem witness_EraseAndClear :
    (∀ p ∈ [(Instr.ein, 0x8C#8), (.clr, 0xCF#8)],
      let s := posted p.1 (.key p.2) 1
      postingDue block .whole .eraseTaken s ∧ s.map.state = .current ∧ s.liveFields.length = 3) ∧
    (postingDue block .whole .eraseTaken (limited (posted .ein (.key 0x8C#8) 1)) ∧
      postingDue block .whole .eraseTaken (after .clin (withDirective .clin 0#16 base)) ∧
      (after .clin (withDirective .clin 0#16 base)).report.intake.state = .running) ∧
    lastWriteDue block 8 0x9000#16 [.call .eraseDone]
      (writing 8 0x9000#16 [.call .eraseDone] numField (withToken (.key 0x8C#8) base)) ∧
    (let s := onPort .composer (cellAddr block 15) .read { base with composer.todo := [.eraseCell 15, .call .eraseDone] }
     claimsJoined s ∧ s.inHand = none ∧ noAbort s ∧ readWord s.mem (cellAddr block 15) = 0x0000#16) ∧
    (let s := after .rmod (withDirective .rmod 0#16 base)
     postingDue block (.cell 0) (.cellTaken 0) s ∧ s.composer.work = .directive .rmod 0#16 ∧
       s.report.intake.state = .running ∧ (entryAt s.map.table 0).any (fun e => !isModified e.word) = true ∧
       (entryAt s.map.table 8).any (fun e => isModified e.word) = true) ∧
    lastWriteDue block 8 0x9000#16 [.call (.cellDone 8)]
      (writing 8 0x9000#16 [.call (.cellDone 8)] numField (after .rmod (withDirective .rmod 0#16 base))) :=
  ⟨by decide, by decide, writing_due _ _ _ _ _ (by decide), by decide, by decide, writing_due _ _ _ _ _ (by decide)⟩

theorem witness_ComposerTransfers :
    (∀ ops ∈ [[Op.read 1, .read 2, .call .scanRead], [.read 1, .writeBack 0], [.eraseCell 1, .eraseCell 2],
        [.eraseCell 1, .write 0 0x8000#16]],
      let s := onPort .composer (cellAddr block 1) .read { base with composer.todo := ops }
      claimsJoined s ∧ memoryCanonical s ∧ s.setup.active = some block ∧ noAbort s ∧ s.composer.todo = ops ∧
        readWord s.mem (cellAddr block 1) = 0x0000#16 ∧ readWord s.mem (cellAddr block 0) ≠ 0x0000#16) ∧
    (∀ ops ∈ [[Op.write 1 0x41#16, .write 2 0x42#16], [.writeBack 1, .read 2], [.list 1 0x41#16, .list 2 0#16]],
      let s := onPort .composer (cellAddr block 1) (.write .word 0x41#16) { base with composer.todo := ops }
      memoryCanonical s ∧ s.map.state ≠ .rebuilding ∧ s.composer.todo = ops ∧ noAbort s) := by decide

theorem witness_CharacterIsWritten :
    (∀ x ∈ [1, 3],
      let s := reading 1 3 (.insertTested 0x41#8) anyField (withToken (.key 0x41#8) (atCursor x base))
      lastReadDue block (cellAddr block 3) (.insertTested 0x41#8) s ∧ isDataOf (formSize block) anyField x = true) ∧
    (charOf (readWord memory (cellAddr block 3)) = 0x00#8 ∧ charOf (0x0041#16) ≠ 0x00#8) ∧
    (∀ k ∈ [Cont.charWritten, .finish],
      lastWriteDue block 1 0x0041#16 [.call .setModified, .call k]
        (writing 1 0x0041#16 [.call .setModified, .call k] anyField (withToken (.key 0x41#8) base))) ∧
    (∀ k ∈ [Cont.charWritten, .finish], ∀ x ∈ [1, 3],
      lastWriteDue block 0 0x8100#16 [.call k]
        (writing 0 0x8100#16 [.call k] { anyField with word := 0x8800#16 } (withToken (.key 0x41#8) (atCursor x base)))) ∧
    (autoAdvance 0x8800#16 = true ∧ offsetOf 16 anyField 3 + 1 = anyField.len) ∧
    (let s := onPort .composer (cellAddr block 3) .read
       { withToken (.key 0x8B#8) base with composer.todo := [.eraseCell 3, .call .setModified, .call .finish] }
     claimsJoined s ∧ s.inHand = none ∧ noAbort s ∧ readWord s.mem (cellAddr block 3) = 0x0000#16) ∧
    (let s := { writing 0 0x8100#16 [.call .charWritten] anyField (withToken (.key 0x41#8) base) with
                heldRange := .span 0 3, inHand := some ⟨writeOf (cellAddr block 2) 0x42#16, .held .range⟩ }
     claimsJoined s ∧ memoryCanonical s ∧ s.setup.active = some block ∧ s.map.state = .current ∧
       s.posting = none ∧ noAbort s ∧ s.composer.work = .token (.key 0x41#8) ∧ autoAdvance 0x8000#16 = false ∧
       s.heldRange ≠ .empty) := by
  refine ⟨fun x hx => ⟨reading_due _ _ _ _ _ ?_, ?_⟩, by decide, fun k hk => writing_due _ _ _ _ _ ?_,
    fun k hk x hx => writing_due _ _ _ _ _ ?_, by decide, by decide, by decide⟩
  · fin_cases hx <;> decide
  · fin_cases hx <;> decide
  · fin_cases hk <;> decide
  · fin_cases hk <;> fin_cases hx <;> decide

/-- The final state word of a list on the port. -/
def closing (st : ListState) (p : ListPhase) (w : Work) : State :=
  onPort .composer (returnAddr block 0) (.write .word (listStateWord st))
    { gathering p with
      composer.work := w, composer.todo := [.list 0 (listStateWord st), .call (.listClosed st)],
      composer.abortMark := decide (p = .aborting) }

theorem witness_ListEnds :
    (∀ p ∈ [(ListState.complete, ListPhase.closing), (.truncated, .closing), (.aborted, .aborting)],
      ∀ w ∈ [Work.token (.key 0xC0#8), .directive .gmod 0#16, .directive .gunp 7#16],
        let s := closing p.1 p.2 w
        claimsJoined s ∧ s.setup.active = some block ∧ formPos block (returnAddr block 0) = none ∧ s.inHand = none ∧
          (noAbort s ∨ s.composer.listPhase = .aborting) ∧ s.composer.listPhase = p.2) ∧
    (closing .complete .closing (.directive .gmod 0#16)).report.intake.state = .none ∧
    ({ closing .complete .closing (.directive .gmod 0#16) with report := intakeAt .running } : State).report.intake.state =
      .running ∧
    isWrite (writeOf (returnAddr block 3) 1#16) = true ∧
    (let s := onPort .composer (returnAddr block 4) (.write .word 5#16)
       { gathering .opening with composer.abortMark := true, composer.todo := [.list 4 5#16, .call .listOpened] }
     claimsJoined s ∧ formPos block (returnAddr block 4) = none ∧ s.inHand = none ∧ s.composer.abortMark = true ∧
       s.composer.listPhase = .opening) := by decide

theorem witness_Directives :
    (∀ d ∈ [Directive.unlk, .lock, .plcr, .gmod, .gunp, .rmod, .clin, .rbld, .flsh],
      directiveReady d (withDirective d 0x000F#16 base)) ∧
    (claimsJoined base ∧ rangeFree base ∧ base.lock = .opened ∧ (locked (.error .fieldFull) base).lock = .error .fieldFull ∧
      (locked (.system .send) base).lock = .system .send) ∧
    (setupRows block * setupCols block = 16 ∧ (0x000F#16).toNat < 16 ∧ 16 ≤ (0x0010#16).toNat) ∧
    (base.map.state ≠ .limit ∧ windowOf block .return ≠ none ∧ (limited base).map.state = .limit ∧
      windowOf (block.set 5 0#16) .return = none ∧ base.map.table = ⟨0, 0x8000#16⟩ :: table.tail ∧
      (unformatted base).map.table = [] ∧ (unformatted base).map.state = .current ∧ (limited base).map.table = [] ∧
      (0x0001#16).getLsbD 0 = true ∧ (0xFFFE#16).getLsbD 0 = false) := by decide

theorem witness_Flush :
    ∀ cs ∈ [[], [⟨.held, true⟩, ⟨.slot 1, true⟩], [⟨.slot 0, false⟩, ⟨.slot 3, false⟩, ⟨.held, true⟩]],
      let s := { withDirective .flsh 0#16 (fullQueue base) with
                 holding := if cs = [] then none else some ⟨0x42#8, 0#16⟩, claimOrder := cs }
      directiveReady .flsh s ∧ rangeFree s ∧ s.claimOrder.length ≤ 32 ∧
        heldClaims s = (if s.holding.isSome then 1 else 0) := by decide

theorem witness_StatusPass :
    claimsJoined base ∧ base.setup.active = some block ∧
    (let s := onPort .status (cellAddr block 16) (.write .word 1#16) { base with report.statusLeft := [(16, 1#16)] }
     s.report.statusLeft = [(16, 1#16)] ∧ s.report.updateRequested = false) ∧
    (let s := { base with report.statusLeft := [(16, 1#16)], report.updateRequested := true }
     s.report.updateRequested = true) ∧
    (let s := { withBlock rowBlock base with report.statusLeft := [(48, 1#16), (49, 2#16)] }
     s.report.statusLeft = (48, 1#16) :: (49, 2#16) :: []) ∧
    pulseMode pulseBlock = true ∧ ({ withBlock pulseBlock base with report.pulse := true } : State).report.pulse = true := by
  decide

theorem witness_CheckDigit :
    ([0] : List Nat) ≠ [] ∧ (∀ x ∈ [0, 9], x < 10) ∧ (9 : Nat) < 10 ∧
      checkPasses .weighted [0x30#8, 0x39#8] = false ∧ expectedCheck .weighted [0] = 0 := by decide

/-! A state beyond reset that meets every invariant, with a command to run. -/

def running : State := { base with pending := [.keyboardFrame 0x41#8 false false] }

theorem running_valid : setupValid running := base_valid _ rfl rfl rfl

theorem running_matches : mapMatches running := by
  intro u hu p hp _
  cases hu
  have h : ∀ q < 16, entryAt running.map.table q =
      if isMark (readWord running.mem (cellAddr block q)) then some ⟨q, readWord running.mem (cellAddr block q)⟩
      else none := by decide
  exact h p hp

theorem witness_Invariants :
    mapFaithful running ∧ fairnessBounded running ∧ seenWithinPending running ∧ attnDriven running ∧
      cursorInside running ∧ queueAgrees running ∧ step running = .next (after (.keyboardFrame 0x41#8 false false) base) := by
  refine ⟨⟨by decide, running_valid, ⟨by decide, by decide, by decide, ?_, ?_⟩, ⟨?_, ?_, ?_, ?_, ?_⟩, running_matches⟩,
    by decide, by decide, by decide, ?_, ?_, rfl⟩
  · decide
  · decide
  · intro t h; cases h
  · intro t h; cases h
  · intro t h; cases h
  · intro t h; cases h
  · intro u _ c hc; cases hc
  · intro u h; cases h; decide
  · refine ⟨by decide, by decide, by decide, by decide, by decide, by decide, ?_, ?_, by decide, by decide, by decide⟩
    · intro i; fin_cases i <;> decide
    · intro i; fin_cases i <;> decide

end Sys2Proof.Tests
end

section
/-! The part of the state that the field map's correctness rests on (R8 to R10, R20): one projection of State, which
every operation leaves as it was but for the few moves of `MapMove`. -/

namespace Sys2Proof.Machine

/-- What the invariants of the field map read: memory, the port and the claims on it, the map but for its flag, the cells
of the status pass, and which setup is active under which strap. Everything else has its reset value. -/
def mapPart (s : State) : State :=
  { State.reset with
    coldAsserted := s.coldAsserted, mem := s.mem, port := s.port, setupClaim := s.setupClaim,
    reportClaim := s.reportClaim, composerClaim := s.composerClaim, map := { s.map with modified := false },
    report := { ReportUnit.cold with statusLeft := s.report.statusLeft },
    setup :=
      { State.reset.setup with
        active := s.setup.active, strap := s.setup.strap, applyWaits := s.setup.applyWaits } }

/-! ### The invariants read nothing else -/

theorem memoryCanonical_mapPart (s : State) : memoryCanonical (mapPart s) ↔ memoryCanonical s := Iff.rfl
theorem setupValid_mapPart (s : State) : setupValid (mapPart s) ↔ setupValid s := Iff.rfl
theorem mapOrdered_mapPart (s : State) : mapOrdered (mapPart s) ↔ mapOrdered s := Iff.rfl
theorem claimsInPlace_mapPart (s : State) : claimsInPlace (mapPart s) ↔ claimsInPlace s := Iff.rfl
theorem mapMatches_mapPart (s : State) : mapMatches (mapPart s) ↔ mapMatches s := Iff.rfl

/-! ### The composer's operations leave it as it was

They leave FORMAT LIMIT as it was among the pending causes too, which only the field map offers (R13, R21, R22). -/

/-- The part, with the pending FORMAT LIMIT. -/
def workPart (s : State) : State :=
  { mapPart s with report.pending := s.report.pending &&& causeBit .formatLimit }

theorem mapPart_of_work {s t : State} (h : workPart t = workPart s) : mapPart t = mapPart s :=
  (congrArg mapPart h : mapPart (workPart t) = mapPart (workPart s))

theorem limitPending_of_work {s t : State} (h : workPart t = workPart s) :
    t.report.pending.getLsbD 6 = s.report.pending.getLsbD 6 := by
  have hb : ∀ y : State, (workPart y).report.pending.getLsbD 6 = y.report.pending.getLsbD 6 := fun y => by
    show (y.report.pending &&& 0x40#8).getLsbD 6 = _
    rw [BitVec.getLsbD_and]; exact Bool.and_true _
  rw [← hb t, h, hb]

/-- An offer of any cause but FORMAT LIMIT. -/
@[simp] theorem workPart_offer (c : Cause) (s : State) (h : c ≠ .formatLimit) : workPart (offer c s) = workPart s := by
  have hb : (s.report.pending ||| causeBit c) &&& causeBit .formatLimit = s.report.pending &&& causeBit .formatLimit := by
    have hc : causeBit c &&& causeBit .formatLimit = 0#8 := by
      cases c
      case formatLimit => exact absurd rfl h
      all_goals rfl
    rw [BitVec.and_or_distrib_right, hc, BitVec.or_zero]
  unfold workPart
  rw [offer_pending, hb]
  rfl
@[simp] theorem workPart_driveAttn (s : State) : workPart (driveAttn s) = workPart s := rfl
@[simp] theorem workPart_count (k : Counter) (s : State) : workPart (count k s) = workPart s := rfl
@[simp] theorem workPart_toneTrigger (s : State) : workPart (toneTrigger s) = workPart s := rfl
@[simp] theorem workPart_freeSlot (i : Fin 4) (s : State) : workPart (freeSlot i s) = workPart s := rfl
@[simp] theorem workPart_markSlot (i : Fin 4) (x : SlotState) (s : State) : workPart (markSlot i x s) = workPart s := rfl
@[simp] theorem workPart_idleComposer (s : State) : workPart (idleComposer s) = workPart s := rfl
@[simp] theorem workPart_postRange (r : HeldRange) (s : State) : workPart (postRange r s) = workPart s := rfl
@[simp] theorem workPart_setTodo (o : List Op) (s : State) : workPart (setTodo o s) = workPart s := rfl
@[simp] theorem workPart_pushTodo (o : List Op) (s : State) : workPart (pushTodo o s) = workPart s := rfl
@[simp] theorem workPart_clearBuffer (s : State) : workPart (clearBuffer s) = workPart s := rfl
@[simp] theorem workPart_setCursor (x : Nat) (s : State) : workPart (setCursor x s) = workPart s := rfl
@[simp] theorem workPart_insertOff (s : State) : workPart (insertOff s) = workPart s := rfl
@[simp] theorem workPart_countEntry (n : Nat) (s : State) : workPart (countEntry n s) = workPart s := rfl
@[simp] theorem workPart_raiseError (c : ErrorCode) (s : State) : workPart (raiseError c s) = workPart s := by
  unfold raiseError; split <;> rfl
@[simp] theorem workPart_sendLock (s : State) : workPart (sendLock s) = workPart s := by
  unfold sendLock; split <;> rfl
@[simp] theorem workPart_unlockKeyboard (s : State) : workPart (unlockKeyboard s) = workPart s := by
  unfold unlockKeyboard; split <;> rfl
@[simp] theorem workPart_lockKeyboard (s : State) : workPart (lockKeyboard s) = workPart s := by
  unfold lockKeyboard; split <;> rfl
@[simp] theorem workPart_freeTokenSlot (t : Token) (s : State) : workPart (freeTokenSlot t s) = workPart s := by
  cases t <;> rfl
@[simp] theorem workPart_reportReadEffect (i : Fin 32) (s : State) : workPart (reportReadEffect i s) = workPart s := by
  unfold reportReadEffect; repeat' split
  all_goals rfl
@[simp] theorem workPart_completeDirective (c : Completion) (s : State) :
    workPart (completeDirective c s) = workPart s := by
  unfold completeDirective; repeat' split
  case h_1 => exact (workPart_offer _ _ (by simp)).trans rfl
  case h_2 => exact (workPart_offer _ _ (by simp)).trans rfl
  all_goals rfl
@[simp] theorem workPart_takeIn (t : Transfer) (s : State) : workPart (takeIn t s) = workPart s := by
  unfold takeIn carryDecision; split
  case h_3 => rw [workPart_count, workPart_offer _ _ (by simp)]; rfl
  case h_5 => rw [workPart_reportReadEffect]; rfl
  all_goals rfl
@[simp] theorem workPart_decideAnew (s : State) : workPart (decideAnew s) = workPart s := by
  unfold decideAnew; repeat' split
  all_goals simp
@[simp] theorem workPart_decideHeld (s : State) : workPart (decideHeld s) = workPart s := by
  unfold decideHeld; repeat' split
  all_goals simp
@[simp] theorem workPart_takePosting (r : HeldRange) (s : State) : workPart (takePosting r s) = workPart s := by
  unfold takePosting; rw [workPart_decideAnew]; rfl
@[simp] theorem workPart_releaseRange (s : State) : workPart (releaseRange s) = workPart s := by
  unfold releaseRange; repeat' split
  · rfl
  · simp
  · rw [workPart_takePosting]; rfl
@[simp] theorem workPart_endWork (s : State) : workPart (endWork s) = workPart s := by
  unfold endWork; rw [workPart_idleComposer, workPart_releaseRange]; split <;> simp
@[simp] theorem workPart_refuse (c : ErrorCode) (s : State) : workPart (refuse c s) = workPart s := by simp [refuse]
@[simp] theorem workPart_finishDirective (c : Completion) (s : State) : workPart (finishDirective c s) = workPart s := by
  simp [finishDirective]
@[simp] theorem workPart_takeHold (s : State) : workPart (takeHold s) = workPart s := by
  unfold takeHold; split <;> simp
@[simp] theorem workPart_startExit (k : Option Nat) (m : Bool) (n : ExitNext) (s : State) :
    workPart (startExit k m n s) = workPart s := by simp [startExit]
@[simp] theorem workPart_exitComputed (k : Option Nat) (m : Bool) (n : ExitNext) (s : State) :
    workPart (exitComputed k m n s) = workPart s := by
  simp only [exitComputed]; split <;> simp
@[simp] theorem workPart_holdForGather (s : State) : workPart (holdForGather s) = workPart s := by
  unfold holdForGather; repeat' split
  all_goals rfl
@[simp] theorem workPart_openList (s : State) : workPart (openList s) = workPart s := by
  unfold openList; rw [workPart_setTodo, workPart_holdForGather]; rfl
@[simp] theorem workPart_closingWrites (l : ListState) (s : State) : workPart (closingWrites l s) = workPart s := by
  simp [closingWrites]
@[simp] theorem workPart_closeList (l : ListState) (s : State) : workPart (closeList l s) = workPart s := by
  unfold closeList; rw [workPart_closingWrites]; rfl
@[simp] theorem workPart_abortList (s : State) : workPart (abortList s) = workPart s := by
  unfold abortList; rw [workPart_closingWrites]; rfl
@[simp] theorem workPart_finishSend (s : State) : workPart (finishSend s) = workPart s := by
  unfold finishSend; rw [workPart_endWork]; split <;> simp
@[simp] theorem workPart_lockAndList (s : State) : workPart (lockAndList s) = workPart s := by
  simp only [lockAndList]; split <;> simp
@[simp] theorem workPart_listDone (l : ListState) (s : State) : workPart (listDone l s) = workPart s := by
  unfold listDone
  cases hw : s.composer.work <;> simp only [hw, workPart_decideHeld, workPart_finishDirective, workPart_finishSend] <;> rfl
@[simp] theorem workPart_walkLimit (w : Walk) (s : State) : workPart (walkLimit w s) = workPart s := by
  cases w <;> simp [walkLimit]
@[simp] theorem workPart_walkEnd (w : Walk) (s : State) : workPart (walkEnd w s) = workPart s := by
  cases w <;> simp [walkEnd]
@[simp] theorem workPart_selectStep (w : Walk) (s : State) : workPart (selectStep w s) = workPart s := by
  unfold selectStep; split <;> simp
@[simp] theorem workPart_startWalk (w : Walk) (s : State) : workPart (startWalk w s) = workPart s := by
  unfold startWalk; rw [workPart_selectStep]; rfl
@[simp] theorem workPart_nextStep (w : Walk) (s : State) : workPart (nextStep w s) = workPart s := by
  unfold nextStep; split
  · simp
  · rw [workPart_selectStep]; rfl
@[simp] theorem workPart_validateField (s : State) : workPart (validateField s) = workPart s := by
  simp only [validateField]; repeat' split
  all_goals simp
@[simp] theorem workPart_validationJudged (s : State) : workPart (validationJudged s) = workPart s := by
  simp only [validationJudged]; repeat' split
  all_goals simp
@[simp] theorem workPart_gatherJudged (s : State) : workPart (gatherJudged s) = workPart s := by
  simp only [gatherJudged]; split <;> simp
@[simp] theorem workPart_gatherField (s : State) : workPart (gatherField s) = workPart s := by
  unfold gatherField; split <;> simp
@[simp] theorem workPart_madeStep (w : Walk) (f : Field) (s : State) : workPart (madeStep w f s) = workPart s := by
  cases w
  · exact (workPart_validateField _).trans rfl
  · exact (workPart_gatherField _).trans rfl
@[simp] theorem workPart_stepTaken (w : Walk) (m : Option Nat) (l : Nat) (s : State) :
    workPart (stepTaken w m l s) = workPart s := by
  unfold stepTaken; repeat' split
  all_goals simp
@[simp] theorem workPart_stepUnderWhole (w : Walk) (s : State) : workPart (stepUnderWhole w s) = workPart s := by
  unfold stepUnderWhole; split
  · simp
  · simp
  · rfl
@[simp] theorem workPart_startErase (s : State) : workPart (startErase s) = workPart s := by simp [startErase]
@[simp] theorem workPart_eraseRefused (s : State) : workPart (erasePass.eraseRefused s) = workPart s := by
  unfold erasePass.eraseRefused; split <;> simp
@[simp] theorem workPart_erasePass (s : State) : workPart (erasePass s) = workPart s := by
  unfold erasePass; split
  · rfl
  all_goals simp
@[simp] theorem workPart_eraseEnded (s : State) : workPart (eraseEnded s) = workPart s := by
  simp only [eraseEnded]; repeat' split
  all_goals simp only [workPart_finishDirective, workPart_lockAndList, workPart_releaseRange, workPart_endWork,
    workPart_setCursor]
  all_goals rfl
@[simp] theorem workPart_passEnded (s : State) : workPart (passEnded s) = workPart s := by
  unfold passEnded; split <;> simp
@[simp] theorem workPart_cellStep (s : State) : workPart (cellStep s) = workPart s := by
  unfold cellStep; split <;> simp
@[simp] theorem workPart_startClearPass (s : State) : workPart (startClearPass s) = workPart s := by
  simp only [startClearPass]; split
  · rw [workPart_passEnded]; rfl
  · rw [workPart_cellStep]; rfl
@[simp] theorem workPart_cellHeld (p : Nat) (s : State) : workPart (cellHeld p s) = workPart s := by
  unfold cellHeld; repeat' split
  · simp
  all_goals rw [workPart_cellStep]; rfl
@[simp] theorem workPart_heldCharacter (c : Byte) (s : State) : workPart (heldCharacter c s) = workPart s := by
  simp only [heldCharacter]; repeat' split
  all_goals simp
@[simp] theorem workPart_insertJudged (c : Byte) (s : State) : workPart (insertJudged c s) = workPart s := by
  simp only [insertJudged]; split <;> simp
@[simp] theorem workPart_markModified (s : State) : workPart (markModified s) = workPart s := by
  unfold markModified; repeat' split
  all_goals rfl
@[simp] theorem workPart_characterDone (s : State) : workPart (characterDone s) = workPart s := by
  simp only [characterDone]; split <;> simp
@[simp] theorem workPart_heldDelete (s : State) : workPart (heldDelete s) = workPart s := by
  simp only [heldDelete]; split <;> simp
@[simp] theorem workPart_heldErase (s : State) : workPart (heldErase s) = workPart s := by
  simp only [heldErase]; split <;> simp
@[simp] theorem workPart_heldFieldExit (s : State) : workPart (heldFieldExit s) = workPart s := by
  simp only [heldFieldExit]; split <;> simp
@[simp] theorem workPart_heldFieldMinus (s : State) : workPart (heldFieldMinus s) = workPart s := by
  simp only [heldFieldMinus]; repeat' split
  all_goals simp
@[simp] theorem workPart_heldMove (c : Byte) (s : State) : workPart (heldMove c s) = workPart s := by
  simp only [heldMove]; split <;> simp
@[simp] theorem workPart_heldSend (s : State) : workPart (heldSend s) = workPart s := by
  unfold heldSend; split <;> simp
@[simp] theorem workPart_heldScan (i : Fin 4) (s : State) : workPart (heldScan i s) = workPart s := by
  simp only [heldScan, rejectScan]; repeat' split
  all_goals simp
@[simp] theorem workPart_scanComputed (s : State) : workPart (scanComputed s) = workPart s := by
  simp only [scanComputed]; split <;> simp
@[simp] theorem workPart_heldWork (s : State) : workPart (heldWork s) = workPart s := by
  unfold heldWork; repeat' split
  all_goals simp
@[simp] theorem workPart_holdTaken (m : Option Nat) (l : Nat) (w : Bool) (s : State) :
    workPart (holdTaken m l w s) = workPart s := by
  unfold holdTaken holdMade; repeat' split
  · simp
  · rw [workPart_heldWork]; rfl
  · rfl
@[simp] theorem workPart_holdUnderWhole (s : State) : workPart (holdUnderWhole s) = workPart s := by
  unfold holdUnderWhole; split
  · simp
  · rfl
@[simp] theorem workPart_exitSucceeded (n : ExitNext) (s : State) : workPart (exitSucceeded n s) = workPart s := by
  cases n <;> simp [exitSucceeded]
@[simp] theorem workPart_listOpened (s : State) : workPart (listOpened s) = workPart s := by
  unfold listOpened; repeat' split
  · simp
  · simp
  · rw [workPart_startWalk]; rfl

/-- A continuation leaves it as it was. -/
@[simp] theorem workPart_runCont (k : Cont) (s : State) : workPart (runCont k s) = workPart s := by
  cases k
  case cellDone p => exact (workPart_cellStep _).trans rfl
  all_goals simp [runCont]

/-! ### So it leaves the map's part as it was

The lemmas of the operations that the rules below name. -/

@[simp] theorem mapPart_offer (c : Cause) (s : State) : mapPart (offer c s) = mapPart s := rfl
@[simp] theorem mapPart_count (k : Counter) (s : State) : mapPart (count k s) = mapPart s := rfl
@[simp] theorem mapPart_idleComposer (s : State) : mapPart (idleComposer s) = mapPart s := rfl
@[simp] theorem mapPart_postRange (r : HeldRange) (s : State) : mapPart (postRange r s) = mapPart s := rfl
@[simp] theorem mapPart_setTodo (o : List Op) (s : State) : mapPart (setTodo o s) = mapPart s := rfl
@[simp] theorem mapPart_setCursor (x : Nat) (s : State) : mapPart (setCursor x s) = mapPart s := rfl
@[simp] theorem mapPart_insertOff (s : State) : mapPart (insertOff s) = mapPart s := rfl
@[simp] theorem mapPart_countEntry (n : Nat) (s : State) : mapPart (countEntry n s) = mapPart s := rfl
@[simp] theorem mapPart_unlockKeyboard (s : State) : mapPart (unlockKeyboard s) = mapPart s :=
  mapPart_of_work (by simp)
@[simp] theorem mapPart_lockKeyboard (s : State) : mapPart (lockKeyboard s) = mapPart s :=
  mapPart_of_work (by simp)
@[simp] theorem mapPart_freeTokenSlot (t : Token) (s : State) : mapPart (freeTokenSlot t s) = mapPart s :=
  mapPart_of_work (by simp)
@[simp] theorem mapPart_completeDirective (c : Completion) (s : State) : mapPart (completeDirective c s) = mapPart s :=
  mapPart_of_work (by simp)
@[simp] theorem mapPart_takeIn (t : Transfer) (s : State) : mapPart (takeIn t s) = mapPart s :=
  mapPart_of_work (by simp)
@[simp] theorem mapPart_decideAnew (s : State) : mapPart (decideAnew s) = mapPart s :=
  mapPart_of_work (by simp)
@[simp] theorem mapPart_decideHeld (s : State) : mapPart (decideHeld s) = mapPart s :=
  mapPart_of_work (by simp)
@[simp] theorem mapPart_takePosting (r : HeldRange) (s : State) : mapPart (takePosting r s) = mapPart s :=
  mapPart_of_work (by simp)
@[simp] theorem mapPart_endWork (s : State) : mapPart (endWork s) = mapPart s :=
  mapPart_of_work (by simp)
@[simp] theorem mapPart_refuse (c : ErrorCode) (s : State) : mapPart (refuse c s) = mapPart s :=
  mapPart_of_work (by simp)
@[simp] theorem mapPart_finishDirective (c : Completion) (s : State) : mapPart (finishDirective c s) = mapPart s :=
  mapPart_of_work (by simp)
@[simp] theorem mapPart_takeHold (s : State) : mapPart (takeHold s) = mapPart s :=
  mapPart_of_work (by simp)
@[simp] theorem mapPart_openList (s : State) : mapPart (openList s) = mapPart s :=
  mapPart_of_work (by simp)
@[simp] theorem mapPart_abortList (s : State) : mapPart (abortList s) = mapPart s :=
  mapPart_of_work (by simp)
@[simp] theorem mapPart_startWalk (w : Walk) (s : State) : mapPart (startWalk w s) = mapPart s :=
  mapPart_of_work (by simp)
@[simp] theorem mapPart_lockAndList (s : State) : mapPart (lockAndList s) = mapPart s :=
  mapPart_of_work (by simp)
@[simp] theorem mapPart_startErase (s : State) : mapPart (startErase s) = mapPart s :=
  mapPart_of_work (by simp)
@[simp] theorem mapPart_startClearPass (s : State) : mapPart (startClearPass s) = mapPart s :=
  mapPart_of_work (by simp)
@[simp] theorem mapPart_runCont (k : Cont) (s : State) : mapPart (runCont k s) = mapPart s :=
  mapPart_of_work (by simp)

end Sys2Proof.Machine
end

section
/-! What a step can do to the part of the state the field map rests on: a few moves, said once for every command. -/

namespace Sys2Proof.Machine

/-! ### The lines, the timer, the queue and the report words leave it as it was -/

@[simp] theorem mapPart_freeTokens (ts : List Token) (s : State) : mapPart (freeTokens ts s) = mapPart s := by
  induction ts generalizing s with
  | nil => rfl
  | cons t r ih => rw [freeTokens, ih, mapPart_freeTokenSlot]
@[simp] theorem mapPart_joinClaim (c : Claim) (s : State) : mapPart (joinClaim c s) = mapPart s := by
  unfold joinClaim; repeat' split
  all_goals rfl
@[simp] theorem mapPart_joinFrom (cs : List Claim) (s : State) : mapPart (joinFrom cs s) = mapPart s := by
  induction cs generalizing s with
  | nil => rfl
  | cons c r ih =>
    simp only [joinFrom]; split
    · rw [ih, mapPart_joinClaim]
    · rfl
@[simp] theorem mapPart_noteChange (s0 s1 : State) : mapPart (noteChange s0 s1) = mapPart s1 := by
  unfold noteChange; split <;> rfl
@[simp] theorem mapPart_endScan (w : Word) (s : State) : mapPart (endScan w s) = mapPart s := by
  unfold endScan judgeScan dropScan acceptScan; dsimp only; repeat' split
  all_goals rfl
@[simp] theorem mapPart_collectFrame (fr : FrameResult) (s : State) : mapPart (collectFrame fr s) = mapPart s := by
  have ht : mapPart (terminateScan s) = mapPart s := (mapPart_endScan _ _).trans rfl
  unfold collectFrame startScan
  split
  · repeat' split
    all_goals rfl
  · split
    · exact ht
    · rfl
  · split
    · exact ht
    · rfl
@[simp] theorem mapPart_lineError (fr : FrameResult) (s : State) : mapPart (lineError fr s) = mapPart s := by
  unfold lineError; split <;> rfl
@[simp] theorem mapPart_keyboardResult (fr : FrameResult) (s : State) : mapPart (keyboardResult fr s) = mapPart s := by
  unfold keyboardResult; repeat' split
  · simp
  all_goals rfl
@[simp] theorem mapPart_scannerResult (fr : FrameResult) (s : State) : mapPart (scannerResult fr s) = mapPart s := by
  simp [scannerResult]
@[simp] theorem mapPart_takeFormat (s : State) : mapPart (takeFormat s) = mapPart s := by
  unfold takeFormat; split <;> rfl
@[simp] theorem mapPart_formatAtIdle (b : RxState) (s : State) : mapPart (formatAtIdle b s) = mapPart s := by
  unfold formatAtIdle; split <;> simp
@[simp] theorem mapPart_keyboardCompletes (fr : FrameResult) (s : State) :
    mapPart (keyboardCompletes fr s) = mapPart s := (mapPart_keyboardResult _ _).trans rfl
@[simp] theorem mapPart_scannerCompletes (fr : FrameResult) (s : State) :
    mapPart (scannerCompletes fr s) = mapPart s := by
  have h : mapPart (beforeScannerFrame s) = mapPart s := by unfold beforeScannerFrame; split <;> simp
  rw [← h]
  exact (mapPart_scannerResult _ _).trans ((mapPart_formatAtIdle _ _).trans rfl)
@[simp] theorem mapPart_lineSampled (l : Line) (m : Bool) (s : State) : mapPart (lineSampled l m s) = mapPart s := by
  cases l
  · show mapPart (keyboardSample m s) = _
    unfold keyboardSample; dsimp only; split
    · exact (mapPart_keyboardResult _ _).trans rfl
    · rfl
  · show mapPart (scannerSample m s) = _
    unfold scannerSample; dsimp only; split
    · exact (mapPart_scannerResult _ _).trans ((mapPart_formatAtIdle _ _).trans rfl)
    · exact (mapPart_formatAtIdle _ _).trans rfl
@[simp] theorem mapPart_gapExpiry (s : State) : mapPart (gapExpiry s) = mapPart s := (mapPart_endScan _ _).trans rfl
@[simp] theorem mapPart_gapIfDue (s : State) : mapPart (gapIfDue s) = mapPart s := by
  unfold gapIfDue; split <;> simp
@[simp] theorem mapPart_holdoffIfDue (s : State) : mapPart (holdoffIfDue s) = mapPart s := by
  unfold holdoffIfDue; split <;> rfl
@[simp] theorem mapPart_toneIfDue (s : State) : mapPart (toneIfDue s) = mapPart s := by
  unfold toneIfDue; split <;> rfl
@[simp] theorem mapPart_scanExpiries (s : State) : mapPart (scanExpiries s) = mapPart s := by
  unfold scanExpiries; dsimp only; repeat' split
  all_goals simp only [mapPart_gapIfDue, mapPart_holdoffIfDue]
  all_goals rfl
@[simp] theorem mapPart_tick (s : State) : mapPart (tick s) = mapPart s := by
  show mapPart (scanExpiries (toneIfDue s)) = _
  simp
@[simp] theorem mapPart_takeToken (t : Token) (rest : List Token) (s : State) :
    mapPart (takeToken t rest s) = mapPart s := by
  have hs (y : State) : mapPart (takeSlot t y) = mapPart y := by
    unfold takeSlot; split <;> rfl
  have hn (y : State) : mapPart (noteSend t y) = mapPart y := by
    unfold noteSend; repeat' split
    all_goals rfl
  unfold takeToken; dsimp only; split
  · rw [mapPart_refuse, hn, hs]; rfl
  · rw [hn, hs]; rfl
@[simp] theorem mapPart_headVerdict (s : State) : mapPart (headVerdict s) = mapPart s := by
  have hd : ∀ t rest, mapPart (discardToken t rest s) = mapPart s := fun t rest => by
    show mapPart (freeTokenSlot t { s with queue := rest }) = _
    rw [mapPart_freeTokenSlot]; rfl
  unfold headVerdict
  split
  · rfl
  · split
    · exact mapPart_takeToken _ _ _
    · split
      · rfl
      · exact hd _ _
    · split
      · rfl
      · exact hd _ _
@[simp] theorem mapPart_reportWrite (i : Fin 32) (v : Word) (s : State) : mapPart (reportWrite i v s) = mapPart s := by
  unfold reportWrite directiveWrite directiveWrite.acceptDirective reportWrite.clearIf
  dsimp only; repeat' split
  all_goals rfl
@[simp] theorem mapPart_handReport (i : Option (Fin 32)) (v : Word) (s : State) :
    mapPart (handReport i v s) = mapPart s := by
  cases i
  · rfl
  · exact mapPart_reportWrite _ _ _
@[simp] theorem mapPart_giveReady (o : Bool) (a : Answer) (s : State) : mapPart (giveReady o a s) = mapPart s := by
  unfold giveReady leaveHand; repeat' split
  all_goals rfl
@[simp] theorem mapPart_takeOwedEmpty (s : State) : mapPart (takeOwedEmpty s) = mapPart s := by
  unfold takeOwedEmpty; split <;> simp

/-! ### The moves -/

/-- One change a command can make to the part. A command makes some of them, one after another. -/
inductive MapMove : State → State → Prop
  /-- Nothing of the part changes. -/
  | calm {s t : State} (h : mapPart t = mapPart s) : MapMove s t
  /-- The status pass begins at the end of an event (R183). -/
  | pass (s : State) : MapMove s (beginPass s)
  /-- A cell of the status pass has been written (R183). -/
  | status {s : State} (h : carriesStatus s = true) : MapMove s (statusDone s)
  /-- The composer claims its next transfer (R130). -/
  | claim {s : State} {u : SetupBlock} (a : WordAddr) (op : MemOp) (h : s.setup.active = some u) :
      MapMove s (claimComposer a op s)
  /-- Cold reset is asserted (R200). -/
  | cold (s : State) : MapMove s (coldState s)
  /-- Cold reset ends (R200). -/
  | coldEnd {s : State} (k : BitVec 4) (h : s.coldAsserted = true) : MapMove s (coldEnded k s)
  /-- A warm reset takes the ready of a granted transfer away (R72). -/
  | warm (s : State) : MapMove s { s with port := s.port.map (fun t => { t with owner := ownerAtWarm t.owner }) }
  /-- The port is granted to the processor (R67). -/
  | processor {s : State} (t : Transfer) (r : Route) (h : s.port = none) :
      MapMove s { s with port := some (grantedTransfer t r) }
  /-- The port is granted to the highest internal claimant (R67). -/
  | internal {s : State} (h : s.port = none) : MapMove s (grantInternal s)
  /-- The read of a byte merge becomes its write (R61). -/
  | merge {s : State} (h : carriesMergeRead s = true) : MapMove s (mergeReadDone s)
  /-- A transfer granted before a cold reset completes (R71). -/
  | orphan {s : State} {t : PortTransfer} (h : s.port = some t) (ho : t.orphan = true) : MapMove s (portDone t s)
  /-- A transfer of the setup unit completes at memory (R195, R197). -/
  | unit {s : State} {t : PortTransfer} (h : s.port = some t) (ho : t.owner = .setupClear) : MapMove s (portDone t s)
  /-- A transfer of the processor or the composer completes at memory, and the map follows it (R11, R52): `s1` is the
  state then, with whatever the completion has done before to the rest of the state. -/
  | learn {s s1 : State} {t : PortTransfer} (h : s.port = some t) (ho : t.orphan = false)
      (h1 : mapPart s1 = mapPart (portDone t s)) : MapMove s (learnTransfer t s1)
  /-- An apply is asked for (R193). -/
  | ask {s : State} (h : s.coldAsserted = false) : MapMove s { s with setup.applyWaits := true }
  /-- The composer takes the apply (R194). -/
  | apply {s : State} (h : s.setup.applyWaits = true) : MapMove s (takeApply s)
  /-- A setup word has been read (R195, R198). -/
  | setupRead {s : State} (h : carriesOwner .setupRead s = true) : MapMove s (setupReadDone s)
  /-- The result word has been written (R197). -/
  | result {s : State} (h : carriesOwner .setupResult s = true) : MapMove s (resultWordDone s)
  /-- A rebuild starts (R18). -/
  | rebuild (s : State) : MapMove s (startRebuild s)
  /-- A read of the scan has completed (R19). -/
  | scan {s : State} (h : carriesOwner .mapScan s = true) : MapMove s (scanReadDone s)

/-- Some moves, one after another. -/
abbrev MapMoves : State → State → Prop := Relation.ReflTransGen MapMove

theorem MapMoves.calm {s t : State} (h : mapPart t = mapPart s) : MapMoves s t := .single (.calm h)

/-- A change of nothing in the part, before some moves. -/
theorem MapMoves.after_calm {s t r : State} (h : mapPart t = mapPart s) (h' : MapMoves t r) : MapMoves s r :=
  .head (.calm h) h'

/-- A change of nothing in the part, after some moves. -/
theorem MapMoves.calm_after {s t r : State} (h : MapMoves s t) (h' : mapPart r = mapPart t) : MapMoves s r :=
  h.tail (.calm h')

/-! ### Each operation as moves -/

theorem moves_settle (s0 s1 : State) : MapMoves s1 (settle s0 s1) :=
  (MapMoves.calm (t := noteChange s0 (joinClaims s1)) ((mapPart_noteChange _ _).trans (mapPart_joinFrom _ _))).tail
    (.pass _)

/-- An event makes the moves of its effect. -/
theorem moves_event {can : Bool} {f : State → State} {s t : State} (hf : can = true → MapMoves s (f s))
    (h : event can f s = .next t) : MapMoves s t := by
  cases can with
  | false => cases h; exact .refl
  | true => cases h; exact (hf rfl).trans (moves_settle s (f s))

/-- A command whose effect leaves the part as it was. -/
theorem moves_event_calm {can : Bool} {f : State → State} {s t : State} (hf : mapPart (f s) = mapPart s)
    (h : event can f s = .next t) : MapMoves s t := moves_event (fun _ => .calm hf) h

theorem moves_beginOp {u : SetupBlock} (op : Op) {s : State} (hu : s.setup.active = some u) :
    MapMoves s (beginOp u op s) := by
  cases op with
  | post r => exact .calm (mapPart_postRange r s)
  | call k => exact .refl
  | read p => exact .single (.claim _ _ hu)
  | write p w => exact .single (.claim _ _ hu)
  | writeBack p => exact .single (.claim _ _ hu)
  | eraseCell p => exact .single (.claim _ _ hu)
  | list i w => exact .single (.claim _ _ hu)

theorem moves_carryOn (n : Nat) (s : State) : MapMoves s (carryOn n s) := by
  induction n generalizing s with
  | zero => exact .refl
  | succ n ih =>
    unfold carryOn
    split
    · exact .refl
    · exact .after_calm ((mapPart_runCont _ _).trans (mapPart_setTodo _ _)) (ih _)
    · split
      · next hu => exact moves_beginOp _ hu
      · exact .refl

/-- The composer goes on after a change of nothing in the part. -/
theorem moves_resume {s t : State} (h : mapPart t = mapPart s) : MapMoves s (resume t) :=
  .after_calm h (moves_carryOn 16 t)

theorem moves_portGrant {s : State} (h : grantDue s = true) : MapMoves s (portGrant s) := by
  have hp : s.port = none := by
    simp only [grantDue, Bool.and_eq_true, Option.isNone_iff_eq_none] at h; exact h.1
  unfold portGrant
  split
  · split
    · exact MapMoves.calm_after (.single (.processor _ _ hp)) rfl
    · exact .single (.internal hp)
  · exact .single (.internal hp)

/-- The apply-word watch asks for an apply, or changes nothing of the part (R66, R193). -/
theorem moves_watchApply (a : WordAddr) (l : Lanes) (v : Word) (s : State) : MapMoves s (watchApply a l v s) := by
  unfold watchApply
  split
  next hc =>
    have hc : s.coldAsserted = false := by simp only [Bool.and_eq_true, Bool.not_eq_true'] at hc; exact hc.1.1
    have ha : MapMoves s (requestApply.ask v s) := by
      unfold requestApply.ask; split
      · exact .refl
      · exact MapMoves.calm_after (.single (.ask hc)) rfl
    unfold requestApply; split
    · exact .refl
    · exact ha
    · exact ha
  next => exact .refl

/-- A processor transfer completes: memory, the map, then the other blocks (R52, R65, R66). -/
theorem moves_processorDone {s : State} {t : PortTransfer} (i : Option (Fin 32)) (m o : Bool) (h : s.port = some t)
    (ho : t.orphan = false) : MapMoves s (processorDone i m o t s) := by
  unfold processorDone tellBlocks
  have h1 := mapPart_giveReady o (answerOf m t.op (readWord (portDone t s).mem t.addr)) (portDone t s)
  have hl : MapMoves s _ := .single (.learn h ho h1)
  dsimp only
  cases hop : t.op with
  | read =>
    rw [hop] at hl
    simp only [learnTransfer, hop] at hl
    exact hl.calm_after (mapPart_takeOwedEmpty _)
  | write l v =>
    rw [hop] at hl
    simp only [learnTransfer, hop] at hl
    have hw := Relation.ReflTransGen.trans (hl.calm_after (mapPart_handReport i v _)) (moves_watchApply t.addr l v _)
    exact MapMoves.calm_after hw (mapPart_takeOwedEmpty _)

theorem moves_transferDone (s : State) : MapMoves s (transferDone s) := by
  unfold transferDone
  split
  · exact .refl
  next t hp =>
    split
    next ho => exact .single (.orphan hp ho)
    next ho =>
      have ho : t.orphan = false := by simpa using ho
      split
      · exact moves_processorDone _ _ _ hp ho
      · exact moves_processorDone _ _ _ hp ho
      all_goals exact .refl

/-- A composer transfer completes: memory, the map, then the composer's work goes on (R130). -/
theorem moves_composerDone (s : State) : MapMoves s (composerDone s) := by
  unfold composerDone
  split
  · exact .refl
  next t hp =>
    dsimp only
    split
    next ho => exact .single (.orphan hp ho)
    next ho =>
      have hl : MapMoves s (learnTransfer t (portDone t s)) := .single (.learn hp (by simpa using ho) rfl)
      have hd : ∀ op rest w y, mapPart (opDone op rest w y) = mapPart y := by
        intro op rest w y
        cases op with
        | eraseCell p => unfold opDone; dsimp only; split <;> rfl
        | _ => rfl
      have hc : ∀ y, mapPart (countIfWhole y) = mapPart y := by
        intro y; unfold countIfWhole; split <;> simp
      split
      · exact hl
      · refine hl.trans ?_
        unfold carryComposer
        split
        · exact moves_resume (by rw [mapPart_abortList, hc, hd])
        · exact moves_resume (hd _ _ _ _)

theorem moves_resultDone {s : State} (h : carriesOwner .setupClear s = true) : MapMoves s (resultDone s) := by
  unfold carriesOwner at h
  unfold resultDone
  cases hp : s.port with
  | none => exact .refl
  | some t =>
    have ho : t.owner = .setupClear := by simpa [hp] using h
    have hu : MapMoves s (portDone t s) := .single (.unit hp ho)
    dsimp only
    split
    · exact hu
    · refine hu.calm_after ((mapPart_offer _ _).trans ?_)
      have hr : mapPart (applyRefused (portDone t s)) = mapPart (portDone t s) := by
        unfold applyRefused leavePause; split <;> rfl
      split
      · rfl
      · exact hr

theorem moves_postingTaken (s : State) : MapMoves s (postingTaken s) := by
  unfold postingTaken
  split
  · exact .refl
  · dsimp only
    split
    · exact moves_resume (by simp)
    · exact .calm (mapPart_takePosting _ _)

/-- A word write row (log 10): the completion of the write on the port, or the whole write. -/
theorem moves_wordWriteRow {i : Option (Fin 32)} {a : WordAddr} {cls : AccessClass} {v : Word} {s t : State}
    (h : wordWriteRow i a cls v s = .next t) : MapMoves s t := by
  unfold wordWriteRow at h
  dsimp only at h
  split at h
  · exact moves_event (fun _ => moves_transferDone s) h
  · refine moves_event (fun hc => ?_) h
    simp only [busOpen, Bool.and_eq_true, Option.isNone_iff_eq_none, decide_eq_true_eq] at hc
    obtain ⟨⟨⟨-, hp⟩, -⟩, hd⟩ := hc
    unfold writeThrough
    refine .after_calm (mapPart_takeIn _ _) (.trans (moves_portGrant ?_) (moves_transferDone _))
    simp [grantDue, takeIn, hd, carryDecision, hp, processorClaim]

theorem moves_reportWriteRow {i : Fin 32} {cls : AccessClass} {v : Word} {s t : State}
    (h : reportWriteRow i cls v s = .next t) : MapMoves s t := by
  unfold reportWriteRow at h
  split at h
  · cases h; exact .refl
  · exact moves_wordWriteRow h

theorem moves_readReport {i : Fin 32} {cls : AccessClass} {l : Lanes} {s t : State}
    (h : readReport i cls l s = .next t) : MapMoves s t := by
  unfold readReport at h
  split at h
  · cases h; exact .refl
  · exact moves_event_calm (mapPart_takeIn _ s) h

theorem moves_warmReset (s : State) : MapMoves s (abortNow (warmValues s)) := by
  have hw : MapMoves s (warmValues s) := .calm_after (.single (.warm s)) rfl
  unfold abortNow
  split
  · exact hw.trans (moves_resume (mapPart_abortList _))
  · exact hw

/-! ### The rows of tokens and directives -/

/-- A token's row, its work begun. -/
theorem moves_tokenRow {p : Token → Bool} {f : State → State} {s t : State} (hf : ∀ y, MapMoves y (f y))
    (h : tokenRow p f s = .next t) : MapMoves s t :=
  moves_event (fun _ => .after_calm (t := { s with composer.begun := true }) rfl (hf _)) h

/-- A directive's row, the directive taken. -/
theorem moves_directiveRow {d : Directive} {f : State → State} {s t : State} (hf : ∀ y, MapMoves y (f y))
    (h : directiveRow d f s = .next t) : MapMoves s t :=
  moves_event (fun _ => .after_calm (t := takeDirective d s) rfl (hf _)) h

theorem mapPart_moveCursor (x : Nat) (s : State) : mapPart (moveCursor x s) = mapPart s := by simp [moveCursor]

theorem moves_beginMove (c : Byte) (s : State) : MapMoves s (beginMove c s) := by
  unfold beginMove; dsimp only; split
  · exact moves_resume (mapPart_takeHold s)
  · exact .calm (mapPart_moveCursor _ s)

theorem moves_backspace (s : State) : MapMoves s (backspace s) := by
  unfold backspace; split
  · split
    · exact .calm (mapPart_moveCursor _ s)
    · exact .calm (mapPart_endWork s)
  · exact .calm (mapPart_endWork s)

theorem moves_beginHold (s : State) : MapMoves s (beginHold s) := moves_resume (mapPart_takeHold s)
theorem moves_beginErase (s : State) : MapMoves s (beginErase s) := moves_resume (mapPart_startErase s)

theorem moves_beginSend (s : State) : MapMoves s (beginSend s) := by
  refine moves_resume ?_
  split
  · split <;> simp
  · simp

theorem moves_runUnlock (s : State) : MapMoves s (runUnlock s) := by
  have hu : MapMoves s (runUnlock.unlock s) := by
    unfold runUnlock.unlock; split
    · exact moves_resume (mapPart_startClearPass s)
    · exact .calm (by simp)
  unfold runUnlock; split
  · exact .calm (mapPart_finishDirective _ s)
  · exact hu
  · exact hu

theorem moves_placeCursor (s : State) : MapMoves s (placeCursor s) := by
  unfold placeCursor; split <;> exact .calm (by simp)

theorem moves_gatherFields (s : State) : MapMoves s (gatherFields s) := by
  unfold gatherFields; dsimp only; split
  · exact .calm ((mapPart_finishDirective _ _).trans rfl)
  · exact moves_resume ((mapPart_openList _).trans rfl)

theorem moves_resetModified (s : State) : MapMoves s (resetModified s) := by
  unfold resetModified; split
  · exact .calm (mapPart_finishDirective _ s)
  · exact moves_resume (mapPart_startClearPass s)

theorem moves_clearInput (s : State) : MapMoves s (clearInput s) := by
  unfold clearInput; split
  · exact .calm (mapPart_finishDirective _ s)
  · exact moves_resume (mapPart_startErase s)

theorem moves_rebuildMap (s : State) : MapMoves s (rebuildMap s) :=
  .after_calm (t := { s with composer.engine := .paused, composer.workingTable := some s.map.table }) rfl
    (.single (.rebuild _))

theorem moves_flushQueue (s : State) : MapMoves s (flushQueue s) :=
  .calm ((mapPart_finishDirective _ _).trans (mapPart_freeTokens s.queue s))

/-! ### Every command -/

/-- Every command's effect on the part is some moves. -/
theorem moves_exec {c : Instr} {s t : State} (h : exec c s = .next t) : MapMoves s t := by
  cases c with
  | coldReset => cases h; split <;> [exact .refl; exact .single (.cold s)]
  | coldResetEnd k => exact moves_event (fun hc => .single (.coldEnd k hc)) h
  | warmReset => exact moves_event (can := true) (f := fun s => abortNow (warmValues s)) (fun _ => moves_warmReset s) h
  | processorTransfer tr => exact moves_event_calm (mapPart_takeIn tr s) h
  | memoryPortGrant => exact moves_event moves_portGrant h
  | processorTransferCompletion => exact moves_event (fun _ => moves_transferDone s) h
  | mergeReadCompletion => exact moves_event (fun hc => .single (.merge hc)) h
  | heldRangePosting => exact moves_event (fun _ => moves_postingTaken s) h
  | readStateWord | readCauseWord => exact moves_readReport h
  | directiveIntake | unknownDirective | writeOperand | clearCounter | clearCauses | reportWordWrite =>
    exact moves_reportWriteRow h
  | applyRequest cls v =>
    change (if s.coldAsserted then _ else _) = _ at h
    split at h
    · cases h; exact .refl
    · exact moves_wordWriteRow h
  | applyTaken =>
    refine moves_event (fun hc => .single (.apply ?_)) h
    simp only [Bool.and_eq_true] at hc
    exact hc.2
  | setupReadCompletion => exact moves_event (fun hc => .single (.setupRead hc)) h
  | resultWordWriteCompletion => exact moves_event (fun hc => .single (.result hc)) h
  | resultEvent => exact moves_event moves_resultDone h
  | scanReadCompletion => exact moves_event (fun hc => .single (.scan hc)) h
  | keyboardFrame => exact moves_event_calm (mapPart_keyboardCompletes _ s) h
  | scannerFrame => exact moves_event_calm (mapPart_scannerCompletes _ s) h
  | gapCompareExpiry => exact moves_event_calm (mapPart_gapExpiry s) h
  | holdoffCompareExpiry | toneCompareExpiry => exact moves_event_calm rfl h
  | headVerdict => exact moves_event_calm (mapPart_headVerdict s) h
  | cur | cul | cuu | cud => exact moves_tokenRow (fun y => .calm (mapPart_moveCursor _ y)) h
  | hom | tab | btb | nln => exact moves_tokenRow (moves_beginMove _) h
  | bsp => exact moves_tokenRow moves_backspace h
  | ins =>
    exact moves_tokenRow (f := fun y => endWork { y with composer.insertMode := !y.composer.insertMode })
      (fun y => .calm ((mapPart_endWork _).trans rfl)) h
  | rst => exact moves_tokenRow (f := fun y => endWork (insertOff y)) (fun y => .calm (by simp)) h
  | dataCharacter | del | eef | fex | fmn | scanToken => exact moves_tokenRow moves_beginHold h
  | ein | clr => exact moves_tokenRow moves_beginErase h
  | ent | f1ToF12 => exact moves_tokenRow moves_beginSend h
  | composerTransferCompletion => exact moves_event (fun _ => moves_composerDone s) h
  | unlk => exact moves_directiveRow moves_runUnlock h
  | lock =>
    exact moves_directiveRow (f := fun y => finishDirective .done (lockKeyboard y)) (fun y => .calm (by simp)) h
  | plcr => exact moves_directiveRow moves_placeCursor h
  | gmod | gunp => exact moves_directiveRow moves_gatherFields h
  | rmod => exact moves_directiveRow moves_resetModified h
  | clin => exact moves_directiveRow moves_clearInput h
  | rbld => exact moves_directiveRow moves_rebuildMap h
  | flsh => exact moves_directiveRow moves_flushQueue h
  | statusWriteCompletion => exact moves_event (fun hc => .single (.status hc)) h
  | attnPulseEnd => exact moves_event_calm rfl h
  | lineSample => exact moves_event_calm (mapPart_lineSampled _ _ s) h
  | keyingTimerTick => exact moves_event_calm (mapPart_tick s) h

/-- Every step's effect on the part is some moves. -/
theorem moves_step {s t : State} (h : step s = .next t) : MapMoves s t := by
  unfold step at h
  split at h
  · cases h; exact .refl
  next c rest _ => exact .after_calm (t := { s with pending := rest }) rfl (moves_exec h)

/-- What every move keeps, every step keeps. -/
theorem step_keeps {P : State → Prop} (hP : ∀ s t, MapMove s t → P s → P t) {s t : State} (h : step s = .next t)
    (hs : P s) : P t := by
  have hm := moves_step h
  clear h
  induction hm with
  | refl => exact hs
  | tail _ hm ih => exact hP _ _ hm ih

end Sys2Proof.Machine
end

section
/-! The map table stays ordered (R8, R9): the table's operations, what upkeep can do, and the setup's and the table's
invariants over the moves. -/

namespace Sys2Proof.Machine

/-! ### The table's operations keep its order -/

theorem mem_insertEntry (e x : Entry) (table : List Entry) : x ∈ insertEntry e table ↔ x = e ∨ x ∈ table := by
  induction table with
  | nil => simp [insertEntry]
  | cons y r ih =>
    simp only [insertEntry]; split
    · simp
    · simp only [List.mem_cons, ih]; tauto

@[simp] theorem length_insertEntry (e : Entry) (table : List Entry) :
    (insertEntry e table).length = table.length + 1 := by
  induction table with
  | nil => rfl
  | cons y r ih => simp only [insertEntry]; split <;> simp [ih]

/-- An entry at a new position goes to its place (R13). -/
theorem insertEntry_ordered (e : Entry) (table : List Entry) (h : table.Pairwise (fun a b => a.pos < b.pos))
    (hn : entryAt table e.pos = none) : (insertEntry e table).Pairwise (fun a b => a.pos < b.pos) := by
  induction table with
  | nil => simp [insertEntry]
  | cons x r ih =>
    rw [List.pairwise_cons] at h
    obtain ⟨hx, hr⟩ := h
    have hne : x.pos ≠ e.pos ∧ entryAt r e.pos = none := by
      simpa [entryAt, List.find?_eq_none] using hn
    simp only [insertEntry]; split
    next hlt =>
      refine List.pairwise_cons.mpr ⟨fun y hy => ?_, List.pairwise_cons.mpr ⟨hx, hr⟩⟩
      rcases List.mem_cons.mp hy with rfl | hy
      · exact hlt
      · exact hlt.trans (hx y hy)
    next hle =>
      refine List.pairwise_cons.mpr ⟨fun y hy => ?_, ih hr hne.2⟩
      rcases (mem_insertEntry e y r).mp hy with rfl | hy
      · omega
      · exact hx y hy

theorem replaceEntry_ordered (p : Nat) (w : Word) (table : List Entry)
    (h : table.Pairwise (fun a b => a.pos < b.pos)) :
    (replaceEntry p w table).Pairwise (fun a b => a.pos < b.pos) := by
  have hpos (e : Entry) : (if e.pos = p then (⟨p, w⟩ : Entry) else e).pos = e.pos := by
    split
    next he => exact he.symm
    next => rfl
  refine List.pairwise_map.mpr (h.imp fun {a b} hab => ?_)
  rw [hpos a, hpos b]
  exact hab

/-- A table of entries below `n` in order, at most 256 of them, each a mark word (R8). -/
def tableOrdered (n : Nat) (table : List Entry) : Prop :=
  table.length ≤ Config.tableSize ∧ table.Pairwise (fun a b => a.pos < b.pos) ∧
    ∀ e ∈ table, e.pos < n ∧ isMark e.word = true

theorem tableOrdered_nil (n : Nat) : tableOrdered n [] := ⟨Nat.zero_le _, List.Pairwise.nil, by simp⟩

/-- A judged write keeps the table in order (R12 to R15). -/
theorem judgeWrite_ordered {n p : Nat} {w : Word} {m m' : FieldMap} (h : judgeWrite p w m = some m') (hp : p < n)
    (ho : tableOrdered n m.table) : tableOrdered n m'.table := by
  obtain ⟨hl, hs, he⟩ := ho
  unfold judgeWrite at h
  split at h
  next => cases h; exact ⟨hl, hs, he⟩
  next hn hw =>
    split at h
    · cases h
    · cases h
      refine ⟨?_, insertEntry_ordered _ _ hs hn, fun e hm => ?_⟩
      · rw [length_insertEntry]; omega
      · rcases (mem_insertEntry _ _ _).mp hm with rfl | hm
        · exact ⟨hp, hw⟩
        · exact he e hm
  next =>
    cases h
    exact ⟨(List.length_filter_le _ _).trans hl, hs.filter _, fun e hm => he e (List.mem_of_mem_filter hm)⟩
  next hw =>
    cases h
    refine ⟨by simpa [replaceEntry] using hl, replaceEntry_ordered p w _ hs, fun e hm => ?_⟩
    obtain ⟨x, hx, rfl⟩ := List.mem_map.mp hm
    split
    · exact ⟨hp, hw⟩
    · exact he x hx

/-- The order, the marks and the scan point together (R8, R9, R20). -/
theorem mapOrdered_iff (s : State) :
    mapOrdered s ↔
      tableOrdered s.formN s.map.table ∧ (s.map.state = .unbuilt ∨ s.map.state = .limit → s.map.table = []) ∧
        (s.map.state = .rebuilding →
          s.map.scanPoint < s.formN ∧ tableOrdered s.map.scanPoint s.map.table) := by
  unfold mapOrdered tableOrdered
  constructor
  · rintro ⟨h1, h2, h3, h4, h5⟩
    exact ⟨⟨h1, h2, h3⟩, h4, fun h => ⟨(h5 h).1, h1, h2, fun e he => ⟨(h5 h).2 e he, (h3 e he).2⟩⟩⟩
  · rintro ⟨⟨h1, h2, h3⟩, h4, h5⟩
    exact ⟨h1, h2, h3, h4, fun h => ⟨(h5 h).1, fun e he => ((h5 h).2.2.2 e he).1⟩⟩

/-! ### What upkeep can do -/

/-- The map has entered LIMIT, with that claim of the composer (R13, R21). -/
def mapLimited (c : Option PortTransfer) (s : State) : State :=
  { s with map.state := .limit, map.table := [], composerClaim := c }

theorem mapPart_rebuildEnded (s : State) : mapPart (rebuildEnded s) = mapPart s := by
  unfold rebuildEnded
  rw [mapPart_decideHeld]
  split <;> simp

theorem mapPart_rebuildLimit (s : State) : mapPart (rebuildLimit s) = mapPart (mapLimited none s) :=
  (mapPart_rebuildEnded _).trans rfl

/-- Upkeep leaves the part as it was, or judges the write and follows it, or puts the map into LIMIT at a 257th mark
(R12, R13, R20). -/
theorem upkeep_cases (p : Nat) (w : Word) (s : State) :
    (s.map.state ≠ .current ∧ (s.map.state = .rebuilding → s.map.scanPoint ≤ p) ∧
      mapPart (upkeep p w s) = mapPart s) ∨
    (∃ m, (s.map.state = .current ∨ s.map.state = .rebuilding ∧ p < s.map.scanPoint) ∧
      judgeWrite p w s.map = some m ∧ mapPart (upkeep p w s) = mapPart { s with map := m }) ∨
    ∃ c, (s.map.state = .current ∨ s.map.state = .rebuilding) ∧ (c = s.composerClaim ∨ c = none) ∧
      mapPart (upkeep p w s) = mapPart (mapLimited c s) := by
  unfold upkeep
  cases hm : s.map.state with
  | unbuilt | limit => exact .inl ⟨by simp, by simp, rfl⟩
  | current =>
    cases hj : judgeWrite p w s.map with
    | some m =>
      obtain ⟨h, hf⟩ := followWrite_hand p w m s
      exact .inr (.inl ⟨m, .inl rfl, rfl, by simp only [hf]; rfl⟩)
    | none => exact .inr (.inr ⟨s.composerClaim, .inl rfl, .inl rfl, rfl⟩)
  | rebuilding =>
    by_cases hp : p < s.map.scanPoint
    · rw [if_pos hp]
      cases hj : judgeWrite p w s.map with
      | some m => exact .inr (.inl ⟨m, .inr ⟨rfl, hp⟩, rfl, rfl⟩)
      | none => exact .inr (.inr ⟨none, .inr rfl, .inr rfl, mapPart_rebuildLimit s⟩)
    · rw [if_neg hp]
      exact .inl ⟨by simp, fun _ => by omega, rfl⟩

/-- A completed transfer that wrote on a form-area cell is handed to upkeep, and no other (R11). -/
theorem learnTransfer_cases (t : PortTransfer) (s : State) :
    (learnTransfer t s = s ∧
      (t.op = .read ∨ ∀ u, s.setup.active = some u → formPos u t.addr = none)) ∨
    ∃ u p, s.setup.active = some u ∧ formPos u t.addr = some p ∧
      learnTransfer t s = upkeep p (readWord s.mem t.addr) s := by
  unfold learnTransfer learnWrite
  cases hop : t.op with
  | read => exact .inl ⟨rfl, .inl rfl⟩
  | write l w =>
    cases hu : s.setup.active with
    | none => exact .inl ⟨rfl, .inr (by simp)⟩
    | some u =>
      cases hf : formPos u t.addr with
      | none => exact .inl ⟨by simp [hf], .inr (by simp [hf])⟩
      | some p => exact .inr ⟨u, p, rfl, hf, by simp [hf]⟩

/-! ### Invariants through what leaves the part as it was -/

section
variable {s t : State} (h : mapPart t = mapPart s)
include h

theorem memoryCanonical_of_calm : memoryCanonical s → memoryCanonical t := by
  rw [← memoryCanonical_mapPart t, h]; exact id
theorem setupValid_of_calm : setupValid s → setupValid t := by rw [← setupValid_mapPart t, h]; exact id
theorem mapOrdered_of_calm : mapOrdered s → mapOrdered t := by rw [← mapOrdered_mapPart t, h]; exact id
theorem claimsInPlace_of_calm : claimsInPlace s → claimsInPlace t := by rw [← claimsInPlace_mapPart t, h]; exact id
theorem mapMatches_of_calm : mapMatches s → mapMatches t := by rw [← mapMatches_mapPart t, h]; exact id
theorem mem_of_calm : t.mem = s.mem := congrArg (fun x => x.mem) h
theorem active_of_calm : t.setup.active = s.setup.active := congrArg (fun x => x.setup.active) h
theorem mapState_of_calm : t.map.state = s.map.state := congrArg (fun x => x.map.state) h

end

/-! ### The setup stays validated, and cold reset quiet (R196, R198, R200) -/

/-- A transfer on the port that is not the processor's, and was not granted before a cold reset, says that none is
asserted. -/
theorem awake_of_port {s : State} {t : PortTransfer} (hq : coldQuiet s) (hp : s.port = some t)
    (ho : t.orphan = false) (hn : ¬processorOwner t.owner) : s.coldAsserted = false := by
  by_contra hc
  obtain ⟨-, -, -, -, -, hport⟩ := hq (by simpa using hc)
  rcases hport t hp with h | h
  · simp [ho] at h
  · exact hn h

theorem awake_of_active {s : State} {u : SetupBlock} (hq : coldQuiet s) (hu : s.setup.active = some u) :
    s.coldAsserted = false := by
  by_contra hc
  obtain ⟨ha, -⟩ := hq (by simpa using hc)
  simp [hu] at ha

/-- The owners of the setup unit, the report unit, the composer and the scan are not the processor's. -/
theorem not_processorOwner {o : Owner}
    (h : o = .setupRead ∨ o = .setupResult ∨ o = .setupClear ∨ o = .status ∨ o = .composer ∨ o = .mapScan) :
    ¬processorOwner o := by
  rintro (⟨_, _, _, rfl⟩ | ⟨_, _, _, rfl⟩ | ⟨_, rfl⟩) <;> simp at h

theorem coldQuiet_awake {s : State} (h : s.coldAsserted = false) : coldQuiet s := fun hc => by simp [h] at hc

/-- A state whose setup and map state stand has a valid setup when cold reset finds it quiet. -/
theorem setupValid_of_same {s t : State} (h : setupValid s) (ha : t.setup.active = s.setup.active)
    (hk : t.setup.strap = s.setup.strap) (hm : t.map.state = s.map.state ∨ s.setup.active ≠ none)
    (hq : coldQuiet t) : setupValid t := by
  obtain ⟨hv, -, hb⟩ := h
  refine ⟨fun u hu => ?_, hq, fun hn => ?_⟩
  · rw [hk]; exact hv u (ha ▸ hu)
  · rw [ha] at hn
    rcases hm with hm | hm
    · rw [hm]; exact hb hn
    · exact absurd hn hm

/-- What coldQuiet asks for, from a quiet state: no more claims, and a transfer on the port that is the processor's. -/
theorem coldQuiet_of_quiet {s t : State} (h : coldQuiet s) (hc : t.coldAsserted = s.coldAsserted)
    (hset : s.coldAsserted = true → s.setup.active = none → s.setup.applyWaits = false → s.setupClaim = none →
      s.reportClaim = none → s.composerClaim = none →
      t.setup.active = none ∧ t.setup.applyWaits = false ∧ t.setupClaim = none ∧ t.reportClaim = none ∧
        t.composerClaim = none ∧
        ((∀ x, s.port = some x → x.orphan = true ∨ processorOwner x.owner) →
          ∀ x, t.port = some x → x.orphan = true ∨ processorOwner x.owner)) : coldQuiet t := by
  intro hct
  have hcs := hc ▸ hct
  obtain ⟨h1, h2, h3, h4, h5, h6⟩ := h hcs
  obtain ⟨k1, k2, k3, k4, k5, k6⟩ := hset hcs h1 h2 h3 h4 h5
  exact ⟨k1, k2, k3, k4, k5, k6 h6⟩

theorem setupValid_portDone {s : State} (t : PortTransfer) (h : setupValid s) : setupValid (portDone t s) :=
  setupValid_of_same h rfl rfl (.inl rfl)
    (coldQuiet_of_quiet h.2.1 rfl fun _ h1 h2 h3 h4 h5 => ⟨h1, h2, h3, h4, h5, fun _ x hx => by cases hx⟩)

theorem setupValid_learnTransfer {s : State} (t : PortTransfer) (h : setupValid s) :
    setupValid (learnTransfer t s) := by
  rcases learnTransfer_cases t s with ⟨he, -⟩ | ⟨u, p, hu, -, he⟩
  · rwa [he]
  rw [he]
  have ha : s.setup.active ≠ none := by simp [hu]
  have hc := awake_of_active h.2.1 hu
  rcases upkeep_cases p (readWord s.mem t.addr) s with ⟨-, -, e⟩ | ⟨m, -, -, e⟩ | ⟨c, -, -, e⟩
  · exact setupValid_of_calm e h
  · exact setupValid_of_calm e (setupValid_of_same h rfl rfl (.inr ha) (coldQuiet_awake hc))
  · exact setupValid_of_calm e (setupValid_of_same h rfl rfl (.inr ha) (coldQuiet_awake hc))

/-- The switch event as the part sees it (R18, R183, R198). -/
def switched (u : SetupBlock) (s : State) : State :=
  { s with
    setup.active := some u, report.statusLeft := [], reportClaim := none, map.state := .rebuilding, map.table := [],
    map.scanPoint := 0, composerClaim := some (scanClaim u 0) }

/-- What the new setup gives the blocks but for the lines' format, which a busy receiver takes later (R86). -/
theorem switchValues_format (u : SetupBlock) (s : State) :
    ∃ f p, switchValues u s =
      driveAttn
        { s with
          setup.active := some u, setup.state := .active, composer.cursor := keptCursor u s.composer.cursor,
          terminator := setupTerminator u, timer.gapLimit := setupGapLimit u, timer.holdoffTicks := setupHoldoff u,
          report.statusLeft := [], reportClaim := none, report.updateRequested := true, report.pulse := false,
          lineFormat := f, pendingFormat := p } := by
  unfold switchValues switchFormat offerFormat
  repeat' split
  all_goals exact ⟨_, _, rfl⟩

theorem mapPart_switchEvent (u : SetupBlock) (s : State) : mapPart (switchEvent u s) = mapPart (switched u s) := by
  obtain ⟨f, p, hf⟩ := switchValues_format u s
  unfold switchEvent
  rw [mapPart_decideAnew, hf]
  rfl

theorem mapPart_claimSetup {s t : State} (o : Owner) (i : Nat) (op : MemOp) (h : mapPart t = mapPart s) :
    mapPart (claimSetup o i op t) = mapPart (claimSetup o i op s) := by
  have e : ∀ x, mapPart (claimSetup o i op x) =
      { mapPart x with setupClaim := some ⟨o, setupAddr (mapPart x).setup.strap i, op, false⟩ } := fun _ => rfl
  rw [e, e, h]

/-- What the completion of a setup read does to the part: an orphan's is dropped; else the next word is claimed, or the
refusal to be written, or an accepted block is switched to and its result claimed (R195 to R198). -/
theorem setupReadDone_cases {s : State} (h : carriesOwner .setupRead s = true) :
    ∃ t, s.port = some t ∧ t.owner = .setupRead ∧
      ((t.orphan = true ∧ setupReadDone s = portDone t s) ∨
       (t.orphan = false ∧ ∃ i, mapPart (setupReadDone s) = mapPart (claimSetup .setupRead i .read (portDone t s))) ∨
       (t.orphan = false ∧
         ∃ r, mapPart (setupReadDone s) = mapPart (claimSetup .setupResult 30 (.write .word r) (portDone t s))) ∨
       (t.orphan = false ∧
         ∃ u, validate s.setup.strap u = 0x0001#16 ∧
           mapPart (setupReadDone s) =
             mapPart (claimSetup .setupResult 30 (.write .word 0x0001#16) (switched u (portDone t s))))) := by
  unfold carriesOwner at h
  cases hp : s.port with
  | none => simp [hp] at h
  | some t =>
    refine ⟨t, rfl, by simpa [hp] using h, ?_⟩
    unfold setupReadDone
    simp only [hp]
    cases ho : t.orphan with
    | true => exact .inl ⟨rfl, rfl⟩
    | false =>
      rw [if_neg (by simp)]
      split
      · exact .inr (.inl ⟨rfl, _, rfl⟩)
      · unfold judgeSetup
        dsimp only
        split
        next hr =>
          refine .inr (.inr (.inr ⟨rfl, _, hr, ?_⟩))
          rw [hr]
          exact mapPart_claimSetup _ _ _ ((mapPart_switchEvent _ _).trans rfl)
        next => exact .inr (.inr (.inl ⟨rfl, _, rfl⟩))

end Sys2Proof.Machine
end

section
/-! What each move makes of the part, in the words of a few updates. -/

namespace Sys2Proof.Machine

/-- The cells `l` are left of a status pass, the first of them claimed (R183). -/
def statusQueued (u : SetupBlock) (l : List (Nat × Word)) (s : State) : State :=
  { s with
    report.statusLeft := l
    reportClaim :=
      l.head?.map (fun d => { owner := .status, addr := cellAddr u d.1, op := .write .word d.2, orphan := false }) }

theorem claimStatus_eq (u : SetupBlock) (s : State) : claimStatus u s = statusQueued u s.report.statusLeft s := by
  unfold claimStatus statusQueued
  cases h : s.report.statusLeft with
  | nil => simp only [List.head?_nil, Option.map_none]; rw [← h]
  | cons d l => simp only [List.head?_cons, Option.map_some]; rw [← h]

theorem beginPass_cases (s : State) :
    beginPass s = s ∨
      ∃ u, s.setup.active = some u ∧ mapPart (beginPass s) = mapPart (statusQueued u (statusImage u s) s) := by
  unfold beginPass
  cases hu : s.setup.active with
  | none => exact .inl rfl
  | some u =>
    dsimp only
    split
    · exact .inr ⟨u, rfl, by rw [claimStatus_eq]; rfl⟩
    · exact .inl rfl

theorem statusDone_cases {s : State} (h : carriesStatus s = true) :
    ∃ t, s.port = some t ∧ t.owner = .status ∧
      ((t.orphan = true ∨ s.setup.active = none) ∧ statusDone s = portDone t s ∨
        t.orphan = false ∧ ∃ u, s.setup.active = some u ∧
          mapPart (statusDone s) = mapPart (statusQueued u s.report.statusLeft.tail (portDone t s))) := by
  unfold carriesStatus at h
  cases hp : s.port with
  | none => simp [hp] at h
  | some t =>
    refine ⟨t, rfl, by simpa [hp] using h, ?_⟩
    unfold statusDone
    simp only [hp]
    cases ho : t.orphan with
    | true => exact .inl ⟨.inl rfl, rfl⟩
    | false =>
      rw [if_neg (by simp)]
      have ha : (portDone t s).setup.active = s.setup.active := rfl
      rw [ha]
      cases hu : s.setup.active with
      | none => exact .inl ⟨.inr rfl, rfl⟩
      | some u =>
        refine .inr ⟨rfl, u, rfl, ?_⟩
        dsimp only
        rw [claimStatus_eq]
        rfl

/-- A grant to an internal claimant takes its claim to the port (R67). -/
theorem grantInternal_cases (s : State) :
    (∃ t, s.setupClaim = some t ∧ mapPart (grantInternal s) = mapPart { s with port := some t, setupClaim := none }) ∨
    (∃ t, s.reportClaim = some t ∧
      mapPart (grantInternal s) = mapPart { s with port := some t, reportClaim := none }) ∨
    (∃ t, s.composerClaim = some t ∧
      mapPart (grantInternal s) = mapPart { s with port := some t, composerClaim := none }) ∨
    grantInternal s = s := by
  unfold grantInternal
  split
  next t h => exact .inl ⟨t, h, rfl⟩
  next =>
    split
    next t h => exact .inr (.inl ⟨t, h, rfl⟩)
    next =>
      split
      next t h => exact .inr (.inr (.inl ⟨t, h, rfl⟩))
      next => exact .inr (.inr (.inr rfl))

theorem mergeReadDone_cases {s : State} (h : carriesMergeRead s = true) :
    ∃ t l d o, s.port = some t ∧ t.owner = .mergeRead l d o ∧
      (t.orphan = true ∧ mergeReadDone s = portDone t s ∨
        t.orphan = false ∧ ∃ w, mergeReadDone s =
          { s with port := some { owner := .mergeWrite o, addr := t.addr, op := .write .word w, orphan := false } }) := by
  unfold carriesMergeRead at h
  cases hp : s.port with
  | none => simp [hp] at h
  | some t =>
    cases hown : t.owner <;> simp [hp, hown] at h
    next l d o =>
      refine ⟨t, l, d, o, rfl, hown, ?_⟩
      unfold mergeReadDone
      simp only [hp, hown]
      cases ho : t.orphan with
      | true => exact .inl ⟨rfl, rfl⟩
      | false => exact .inr ⟨rfl, _, rfl⟩

theorem resultWordDone_cases {s : State} (h : carriesOwner .setupResult s = true) :
    ∃ t, s.port = some t ∧ t.owner = .setupResult ∧
      (t.orphan = true ∧ resultWordDone s = portDone t s ∨
        t.orphan = false ∧ resultWordDone s = claimSetup .setupClear 31 (.write .word 0#16) (portDone t s)) := by
  unfold carriesOwner at h
  cases hp : s.port with
  | none => simp [hp] at h
  | some t =>
    refine ⟨t, rfl, by simpa [hp] using h, ?_⟩
    unfold resultWordDone
    simp only [hp]
    cases ho : t.orphan with
    | true => exact .inl ⟨rfl, rfl⟩
    | false => exact .inr ⟨rfl, rfl⟩

/-- A rebuild started under the setup u (R18). -/
def rebuildStarted (u : SetupBlock) (s : State) : State :=
  { s with
    map.state := .rebuilding, map.table := [], map.scanPoint := 0, composerClaim := some (scanClaim u 0) }

theorem startRebuild_cases (s : State) :
    startRebuild s = s ∨ ∃ u, s.setup.active = some u ∧ startRebuild s = rebuildStarted u s := by
  unfold startRebuild
  cases hu : s.setup.active with
  | none => exact .inl rfl
  | some u => exact .inr ⟨u, rfl, rfl⟩

/-- The cell at the scan point has been taken in: a mark added at the top, the scan point advanced (R19). -/
def scanned (w : Word) (s : State) : State :=
  { s with
    map.table := if isMark w then s.map.table ++ [⟨s.map.scanPoint, w⟩] else s.map.table
    map.scanPoint := s.map.scanPoint + 1 }

/-- What a read of the scan does once memory has completed it: the map enters LIMIT at a 257th mark; else the cell is
taken in, the last one making the map CURRENT, another being followed by the next claim (R19, R21). -/
theorem scanWord_cases (w : Word) (s : State) :
    mapPart (scanWord w s) = mapPart (mapLimited none s) ∨
    ((isMark w = true → s.map.table.length < Config.tableSize) ∧
      (s.formN ≤ s.map.scanPoint + 1 ∧
          mapPart (scanWord w s) = mapPart { scanned w s with map.state := .current } ∨
        s.map.scanPoint + 1 < s.formN ∧ mapPart (scanWord w s) = mapPart (claimScan (scanned w s)))) := by
  have adv : ∀ y z : State, mapPart y = mapPart z → y.formN = z.formN →
      z.formN ≤ z.map.scanPoint ∧ mapPart (scanAdvanced y) = mapPart { z with map.state := .current } ∨
        z.map.scanPoint < z.formN ∧ mapPart (scanAdvanced y) = mapPart (claimScan z) := by
    intro y z h hn
    have hs : y.map.scanPoint = z.map.scanPoint := congrArg (fun x => x.map.scanPoint) h
    have hu : y.setup.active = z.setup.active := active_of_calm h
    unfold scanAdvanced
    rw [hn, hs]
    split
    next hle =>
      refine .inl ⟨hle, (mapPart_rebuildEnded _).trans ?_⟩
      have e : ∀ (x : State) b, mapPart { x with map.state := .current, map.modified := b } =
          { mapPart x with map.state := .current } := fun _ _ => rfl
      have e' : mapPart { z with map.state := .current } = { mapPart z with map.state := .current } := rfl
      rw [e, e', h]
    next hlt =>
      refine .inr ⟨by omega, ?_⟩
      unfold claimScan
      rw [hu, hs]
      cases z.setup.active with
      | none => exact h
      | some u =>
        have e : ∀ (x : State) c, mapPart { x with composerClaim := c } = { mapPart x with composerClaim := c } :=
          fun _ _ => rfl
        dsimp only
        rw [e, h]
        rfl
  unfold scanWord
  by_cases hw : isMark w = true
  · have hs : scanned w s =
        { s with map.table := s.map.table ++ [⟨s.map.scanPoint, w⟩], map.scanPoint := s.map.scanPoint + 1 } := by
      unfold scanned; rw [if_pos hw]
    rw [if_pos hw]
    split
    next => exact .inl (mapPart_rebuildLimit s)
    next hl => exact .inr ⟨fun _ => by omega, adv _ (scanned w s) (by rw [hs]; rfl) rfl⟩
  · have hs : scanned w s = { s with map.scanPoint := s.map.scanPoint + 1 } := by
      unfold scanned; rw [if_neg hw]
    rw [if_neg hw]
    exact .inr ⟨fun h => absurd h hw, adv _ (scanned w s) (by rw [hs]) rfl⟩

theorem scanReadDone_cases {s : State} (h : carriesOwner .mapScan s = true) :
    ∃ t, s.port = some t ∧ t.owner = .mapScan ∧
      ((t.orphan = true ∨ s.map.state ≠ .rebuilding) ∧ scanReadDone s = portDone t s ∨
        t.orphan = false ∧ s.map.state = .rebuilding ∧
          scanReadDone s = scanWord (scanCell (portDone t s)) (portDone t s)) := by
  unfold carriesOwner at h
  cases hp : s.port with
  | none => simp [hp] at h
  | some t =>
    refine ⟨t, rfl, by simpa [hp] using h, ?_⟩
    unfold scanReadDone
    simp only [hp]
    have hs : (portDone t s).map = s.map := rfl
    cases ho : t.orphan with
    | true => exact .inl ⟨.inl rfl, rfl⟩
    | false =>
      rw [if_neg (by simp), hs]
      by_cases hr : s.map.state = .rebuilding
      · rw [if_pos hr]; exact .inr ⟨rfl, hr, rfl⟩
      · rw [if_neg hr]; exact .inl ⟨.inr hr, rfl⟩

/-! ### The setup stays validated -/

/-- A state, not under cold reset, whose setup and map state stand. -/
theorem setupValid_awake {s t : State} (h : setupValid s) (hc : s.coldAsserted = false)
    (he : t.coldAsserted = s.coldAsserted) (ha : t.setup.active = s.setup.active)
    (hk : t.setup.strap = s.setup.strap) (hm : t.map.state = s.map.state ∨ s.setup.active ≠ none) : setupValid t :=
  setupValid_of_same h ha hk hm (coldQuiet_awake (he.trans hc))

theorem setupValid_statusQueued {s : State} {u : SetupBlock} (l : List (Nat × Word)) (hu : s.setup.active = some u)
    (h : setupValid s) : setupValid (statusQueued u l s) :=
  setupValid_awake h (awake_of_active h.2.1 hu) rfl rfl rfl (.inl rfl)

theorem setupValid_claimSetup {s : State} (o : Owner) (i : Nat) (op : MemOp) (hc : s.coldAsserted = false)
    (h : setupValid s) : setupValid (claimSetup o i op s) :=
  setupValid_awake h hc rfl rfl rfl (.inl rfl)

/-- Every move keeps the active setup validated and cold reset quiet (R196, R198, R200). -/
theorem setupValid_move {s t : State} (hm : MapMove s t) (h : setupValid s) : setupValid t := by
  have hq : coldQuiet s := h.2.1
  cases hm with
  | calm e => exact setupValid_of_calm e h
  | pass =>
    rcases beginPass_cases s with e | ⟨u, hu, e⟩
    · rwa [e]
    · exact setupValid_of_calm e (setupValid_statusQueued _ hu h)
  | status hc =>
    obtain ⟨x, hp, hown, ⟨-, e⟩ | ⟨ho, u, hu, e⟩⟩ := statusDone_cases hc
    · rw [e]; exact setupValid_portDone x h
    · exact setupValid_of_calm e (setupValid_statusQueued _ hu (setupValid_portDone x h))
  | claim a op hu => exact setupValid_awake h (awake_of_active hq hu) rfl rfl rfl (.inl rfl)
  | cold =>
    refine ⟨fun u hu => (nomatch hu), fun _ => ⟨rfl, rfl, rfl, rfl, rfl, fun x hx => ?_⟩, fun _ => rfl⟩
    obtain ⟨y, -, rfl⟩ := Option.map_eq_some_iff.mp (hx : s.port.map orphaned = some x)
    exact .inl rfl
  | coldEnd k hc =>
    obtain ⟨ha, -⟩ := hq hc
    exact ⟨fun u hu => by simp [coldEnded, ha] at hu, coldQuiet_awake rfl, h.2.2⟩
  | warm =>
    refine setupValid_of_same h rfl rfl (.inl rfl)
      (coldQuiet_of_quiet hq rfl fun _ h1 h2 h3 h4 h5 => ⟨h1, h2, h3, h4, h5, fun hp x hx => ?_⟩)
    obtain ⟨y, hy, rfl⟩ := Option.map_eq_some_iff.mp hx
    rcases hp y hy with ho | ⟨i, m, r, ho⟩ | ⟨l, d, r, ho⟩ | ⟨r, ho⟩
    · exact .inl ho
    · exact .inr (.inl ⟨i, m, false, by simp [ho, ownerAtWarm]⟩)
    · exact .inr (.inr (.inl ⟨l, d, false, by simp [ho, ownerAtWarm]⟩))
    · exact .inr (.inr (.inr ⟨false, by simp [ho, ownerAtWarm]⟩))
  | processor tr r hp =>
    refine setupValid_of_same h rfl rfl (.inl rfl)
      (coldQuiet_of_quiet hq rfl fun _ h1 h2 h3 h4 h5 => ⟨h1, h2, h3, h4, h5, fun _ x hx => .inr ?_⟩)
    cases hx
    cases r with
    | pass i => exact .inl ⟨i, false, true, rfl⟩
    | maskedRead => exact .inl ⟨none, true, true, rfl⟩
    | merge => exact .inr (.inl ⟨_, _, _, rfl⟩)
  | internal hp =>
    rcases grantInternal_cases s with ⟨x, hx, e⟩ | ⟨x, hx, e⟩ | ⟨x, hx, e⟩ | e
    · exact setupValid_of_calm e (setupValid_of_same h rfl rfl (.inl rfl)
        (coldQuiet_of_quiet hq rfl fun _ _ _ h3 _ _ => by simp [h3] at hx))
    · exact setupValid_of_calm e (setupValid_of_same h rfl rfl (.inl rfl)
        (coldQuiet_of_quiet hq rfl fun _ _ _ _ h4 _ => by simp [h4] at hx))
    · exact setupValid_of_calm e (setupValid_of_same h rfl rfl (.inl rfl)
        (coldQuiet_of_quiet hq rfl fun _ _ _ _ _ h5 => by simp [h5] at hx))
    · rwa [e]
  | merge hc =>
    obtain ⟨x, l, d, o, hp, hown, ⟨ho, e⟩ | ⟨ho, w, e⟩⟩ := mergeReadDone_cases hc
    · rw [e]; exact setupValid_portDone x h
    · rw [e]
      refine setupValid_of_same h rfl rfl (.inl rfl)
        (coldQuiet_of_quiet hq rfl fun _ h1 h2 h3 h4 h5 => ⟨h1, h2, h3, h4, h5, fun _ y hy => .inr ?_⟩)
      cases hy
      exact .inr (.inr ⟨_, rfl⟩)
  | orphan hp ho => exact setupValid_portDone _ h
  | unit hp ho => exact setupValid_portDone _ h
  | learn hp ho h1 => exact setupValid_learnTransfer _ (setupValid_of_calm h1 (setupValid_portDone _ h))
  | ask hc => exact setupValid_awake h hc rfl rfl rfl (.inl rfl)
  | apply ha =>
    refine setupValid_of_same h rfl rfl (.inl rfl) (coldQuiet_of_quiet hq rfl fun _ _ h2 => ?_)
    simp [ha] at h2
  | setupRead hc =>
    obtain ⟨x, hp, hown, hx⟩ := setupReadDone_cases hc
    have hd := setupValid_portDone x h
    have awake (ho : x.orphan = false) : s.coldAsserted = false :=
      awake_of_port hq hp ho (not_processorOwner (.inl hown))
    obtain ⟨-, e⟩ | ⟨ho, i, e⟩ | ⟨ho, r, e⟩ | ⟨ho, u, hv, e⟩ := hx
    · rwa [e]
    · exact setupValid_of_calm e (setupValid_claimSetup _ _ _ (awake ho) hd)
    · exact setupValid_of_calm e (setupValid_claimSetup _ _ _ (awake ho) hd)
    · refine setupValid_of_calm e (setupValid_claimSetup _ _ _ (awake ho) ⟨fun v hv' => ?_, ?_, ?_⟩)
      · cases hv'; exact hv
      · exact coldQuiet_awake (awake ho)
      · intro hn; cases hn
  | result hc =>
    obtain ⟨x, hp, hown, ⟨-, e⟩ | ⟨ho, e⟩⟩ := resultWordDone_cases hc
    · rw [e]; exact setupValid_portDone x h
    · rw [e]
      have hc := awake_of_port hq hp ho (not_processorOwner (.inr (.inl hown)))
      exact setupValid_claimSetup _ _ _ hc (setupValid_portDone x h)
  | rebuild =>
    rcases startRebuild_cases s with e | ⟨u, hu, e⟩
    · rwa [e]
    · rw [e]
      exact setupValid_awake h (awake_of_active hq hu) rfl rfl rfl (.inr (by simp [hu]))
  | scan hc =>
    obtain ⟨x, hp, hown, ⟨-, e⟩ | ⟨ho, hr, e⟩⟩ := scanReadDone_cases hc
    · rw [e]; exact setupValid_portDone x h
    · rw [e]
      have hw : s.coldAsserted = false := awake_of_port hq hp ho (not_processorOwner (by simp [hown]))
      have ha : s.setup.active ≠ none := fun hn => by simp [h.2.2 hn] at hr
      rcases scanWord_cases (scanCell (portDone x s)) (portDone x s) with e | ⟨-, ⟨-, e⟩ | ⟨-, e⟩⟩
      · exact setupValid_of_calm e (setupValid_awake h hw rfl rfl rfl (.inr ha))
      · exact setupValid_of_calm e (setupValid_awake h hw rfl rfl rfl (.inr ha))
      · refine setupValid_of_calm e ?_
        unfold claimScan
        split
        · exact setupValid_awake h hw rfl rfl rfl (.inr ha)
        · exact setupValid_awake h hw rfl rfl rfl (.inr ha)

end Sys2Proof.Machine
end

section
/-! Every step keeps the map table in order (R8, R9). -/

namespace Sys2Proof.Machine

theorem mapOrdered_of_same {s t : State} (h : mapOrdered s) (hm : t.map = s.map)
    (ha : t.setup.active = s.setup.active) : mapOrdered t := by
  have hn : t.formN = s.formN := by simp only [State.formN, ha]
  rw [mapOrdered_iff] at h ⊢
  rwa [hm, hn]

/-- An empty table, with no rebuild under way, is in order. -/
theorem mapOrdered_empty {t : State} (h : t.map.table = []) (hr : t.map.state ≠ .rebuilding) : mapOrdered t := by
  rw [mapOrdered_iff, h]
  exact ⟨tableOrdered_nil _, fun _ => rfl, fun he => absurd he hr⟩

/-- A rebuild that has just started is in order. -/
theorem mapOrdered_started {t : State} (h : t.map.table = []) (hp : t.map.scanPoint = 0) (hn : 0 < t.formN)
    (hs : t.map.state = .rebuilding) : mapOrdered t := by
  rw [mapOrdered_iff, h, hp, hs]
  exact ⟨tableOrdered_nil _, fun _ => rfl, fun _ => ⟨hn, tableOrdered_nil _⟩⟩

theorem mapOrdered_judged {s : State} {p : Nat} {w : Word} {m : FieldMap} (h : mapOrdered s) (hp : p < s.formN)
    (hs : s.map.state = .current ∨ s.map.state = .rebuilding ∧ p < s.map.scanPoint)
    (hj : judgeWrite p w s.map = some m) : mapOrdered { s with map := m } := by
  obtain ⟨hst, hsp, -⟩ := judgeWrite_entryAt p w s.map m hj p
  rw [mapOrdered_iff] at h ⊢
  obtain ⟨ho, -, hr⟩ := h
  refine ⟨judgeWrite_ordered hj hp ho, ?_, ?_⟩
  · show m.state = _ ∨ m.state = _ → _
    rw [hst]
    rcases hs with hs | ⟨hs, -⟩ <;> simp [hs]
  · show m.state = _ → m.scanPoint < _ ∧ tableOrdered m.scanPoint m.table
    rw [hst, hsp]
    intro hrb
    obtain ⟨hlt, hto⟩ := hr hrb
    refine ⟨hlt, judgeWrite_ordered hj ?_ hto⟩
    rcases hs with hs | ⟨-, hs⟩
    · simp [hs] at hrb
    · exact hs

theorem mapOrdered_learnTransfer {s : State} (t : PortTransfer) (h : mapOrdered s) : mapOrdered (learnTransfer t s) := by
  rcases learnTransfer_cases t s with ⟨he, -⟩ | ⟨u, p, hu, hf, he⟩
  · rwa [he]
  rw [he]
  have hp : p < s.formN := by simpa [State.formN, hu] using (cellAddr_formPos u _ p hf).1
  rcases upkeep_cases p (readWord s.mem t.addr) s with ⟨-, -, e⟩ | ⟨m, hs, hj, e⟩ | ⟨c, -, -, e⟩
  · exact mapOrdered_of_calm e h
  · exact mapOrdered_of_calm e (mapOrdered_judged h hp hs hj)
  · exact mapOrdered_of_calm e (mapOrdered_empty rfl (by simp [mapLimited]))

/-- The table with the cell at the scan point taken in, once the scan point has advanced (R19). -/
theorem scanned_ordered {s : State} {w : Word} (h : mapOrdered s) (hs : s.map.state = .rebuilding)
    (hl : isMark w = true → s.map.table.length < Config.tableSize) :
    tableOrdered (s.map.scanPoint + 1) (scanned w s).map.table := by
  obtain ⟨-, -, hr⟩ := (mapOrdered_iff s).mp h
  obtain ⟨hlt, hlen, hord, he⟩ := hr hs
  unfold scanned
  dsimp only
  split
  next hw =>
    refine ⟨by simpa using hl hw, List.pairwise_append.mpr ⟨hord, by simp, ?_⟩, ?_⟩
    · intro a ha b hb
      rw [List.mem_singleton.mp hb]
      exact (he a ha).1
    · intro e hm
      rcases List.mem_append.mp hm with hm | hm
      · exact ⟨Nat.lt_succ_of_lt (he e hm).1, (he e hm).2⟩
      · rw [List.mem_singleton.mp hm]; exact ⟨Nat.lt_succ_self _, hw⟩
  next => exact ⟨hlen, hord, fun e hm => ⟨Nat.lt_succ_of_lt (he e hm).1, (he e hm).2⟩⟩

theorem tableOrdered_mono {n n' : Nat} {table : List Entry} (h : tableOrdered n table) (hn : n ≤ n') :
    tableOrdered n' table :=
  ⟨h.1, h.2.1, fun e he => ⟨(h.2.2 e he).1.trans_le hn, (h.2.2 e he).2⟩⟩

theorem claimScan_map (s : State) : (claimScan s).map = s.map ∧ (claimScan s).setup = s.setup := by
  unfold claimScan; split <;> exact ⟨rfl, rfl⟩

theorem mapOrdered_scanWord {s : State} (w : Word) (h : mapOrdered s) (hs : s.map.state = .rebuilding) :
    mapOrdered (scanWord w s) := by
  have hlt : s.map.scanPoint < s.formN := (((mapOrdered_iff s).mp h).2.2 hs).1
  rcases scanWord_cases w s with e | ⟨hl, ⟨hn, e⟩ | ⟨hn, e⟩⟩
  · exact mapOrdered_of_calm e (mapOrdered_empty rfl (by simp [mapLimited]))
  · refine mapOrdered_of_calm e ((mapOrdered_iff _).mpr ⟨?_, by simp, by simp⟩)
    exact tableOrdered_mono (scanned_ordered h hs hl) hlt
  · obtain ⟨hm, hu⟩ := claimScan_map (scanned w s)
    refine mapOrdered_of_calm e (mapOrdered_of_same ((mapOrdered_iff _).mpr ?_) hm (congrArg SetupUnit.active hu))
    have ho := scanned_ordered h hs hl
    refine ⟨tableOrdered_mono ho hlt, ?_, fun _ => ⟨hn, ho⟩⟩
    show s.map.state = _ ∨ s.map.state = _ → _
    simp [hs]

/-- Every move keeps the map table in order. -/
theorem mapOrdered_move {s t : State} (hm : MapMove s t) (hv : setupValid s) (h : mapOrdered s) : mapOrdered t := by
  have size (u : SetupBlock) (hu : s.setup.active = some u) : 0 < formSize u := valid_formSize _ u (hv.1 u hu)
  cases hm with
  | calm e => exact mapOrdered_of_calm e h
  | pass =>
    have e := besidesStatus_beginPass s
    exact mapOrdered_of_same h (map_besides e) (congrArg (fun x => x.setup.active) e)
  | status hc =>
    obtain ⟨x, -, -, ⟨-, e⟩ | ⟨-, u, -, e⟩⟩ := statusDone_cases hc
    · rw [e]; exact mapOrdered_of_same h rfl rfl
    · exact mapOrdered_of_calm e (mapOrdered_of_same h rfl rfl)
  | cold => exact mapOrdered_empty rfl (by simp [coldState, State.reset])
  | internal =>
    rcases grantInternal_cases s with ⟨x, -, e⟩ | ⟨x, -, e⟩ | ⟨x, -, e⟩ | e
    iterate 3 exact mapOrdered_of_calm e (mapOrdered_of_same h rfl rfl)
    · rwa [e]
  | merge hc =>
    obtain ⟨x, l, d, o, -, -, ⟨-, e⟩ | ⟨-, w, e⟩⟩ := mergeReadDone_cases hc <;>
      rw [e] <;> exact mapOrdered_of_same h rfl rfl
  | learn hp ho h1 => exact mapOrdered_learnTransfer _ (mapOrdered_of_calm h1 (mapOrdered_of_same h rfl rfl))
  | setupRead hc =>
    obtain ⟨x, -, -, ⟨-, e⟩ | ⟨-, i, e⟩ | ⟨-, r, e⟩ | ⟨-, u, hu, e⟩⟩ := setupReadDone_cases hc
    · rw [e]; exact mapOrdered_of_same h rfl rfl
    · exact mapOrdered_of_calm e (mapOrdered_of_same h rfl rfl)
    · exact mapOrdered_of_calm e (mapOrdered_of_same h rfl rfl)
    · exact mapOrdered_of_calm e (mapOrdered_started rfl rfl (valid_formSize _ u hu) rfl)
  | result hc =>
    obtain ⟨x, -, -, ⟨-, e⟩ | ⟨-, e⟩⟩ := resultWordDone_cases hc
    · rw [e]; exact mapOrdered_of_same h rfl rfl
    · rw [e]; exact mapOrdered_of_same h rfl rfl
  | rebuild =>
    rcases startRebuild_cases s with e | ⟨u, hu, e⟩
    · rwa [e]
    · rw [e]
      refine mapOrdered_started rfl rfl ?_ rfl
      simpa [State.formN, rebuildStarted, hu] using size u hu
  | scan hc =>
    obtain ⟨x, -, -, ⟨-, e⟩ | ⟨-, hr, e⟩⟩ := scanReadDone_cases hc <;> rw [e]
    · exact mapOrdered_of_same h rfl rfl
    · exact mapOrdered_scanWord _ (mapOrdered_of_same h rfl rfl) hr
  | claim | coldEnd | warm | processor | orphan | unit | ask | apply => exact mapOrdered_of_same h rfl rfl

/-- Settles O57: every move keeps the validated setup and, with it, the table's order. -/
theorem mapTableStaysOrdered : Obligations.MapTableStaysOrdered := by
  intro s t hv hm h
  exact (step_keeps (P := fun x => setupValid x ∧ mapOrdered x)
    (fun _ _ m ⟨a, b⟩ => ⟨setupValid_move m a, mapOrdered_move m a b⟩) h ⟨hv, hm⟩).2

end Sys2Proof.Machine
end

section
/-! Every step keeps the field map equal to the form area (R10, R20): the transfers keep to their addresses, memory
outside the form area may change, and a write inside it is followed. -/

namespace Sys2Proof.Machine

/-! ### Memory -/

theorem memoryCanonical_learnTransfer {s : State} (t : PortTransfer) (h : memoryCanonical s) :
    memoryCanonical (learnTransfer t s) := by
  rcases learnTransfer_cases t s with ⟨he, -⟩ | ⟨u, p, -, -, he⟩ <;> rw [he]
  · exact h
  · rcases upkeep_cases p (readWord s.mem t.addr) s with ⟨-, -, e⟩ | ⟨m, -, -, e⟩ | ⟨c, -, -, e⟩ <;>
      exact memoryCanonical_of_calm e h

/-- Every move keeps memory in canonical form. -/
theorem memoryCanonical_move {s t : State} (hm : MapMove s t) (h : memoryCanonical s) : memoryCanonical t := by
  have done (x : PortTransfer) : memoryCanonical (portDone x s) := Memory.wf_memAfter _ _ h
  cases hm with
  | calm e => exact memoryCanonical_of_calm e h
  | pass => unfold memoryCanonical; rwa [mem_besides (besidesStatus_beginPass s)]
  | status hc =>
    obtain ⟨x, -, -, ⟨-, e⟩ | ⟨-, u, -, e⟩⟩ := statusDone_cases hc
    · rw [e]; exact done x
    · exact memoryCanonical_of_calm e (done x)
  | internal =>
    rcases grantInternal_cases s with ⟨x, -, e⟩ | ⟨x, -, e⟩ | ⟨x, -, e⟩ | e
    iterate 3 exact memoryCanonical_of_calm e h
    · rwa [e]
  | merge hc =>
    obtain ⟨x, l, d, o, -, -, ⟨-, e⟩ | ⟨-, w, e⟩⟩ := mergeReadDone_cases hc <;> rw [e]
    · exact done x
    · exact h
  | learn hp ho h1 => exact memoryCanonical_learnTransfer _ (memoryCanonical_of_calm h1 (done _))
  | setupRead hc =>
    obtain ⟨x, -, -, ⟨-, e⟩ | ⟨-, i, e⟩ | ⟨-, r, e⟩ | ⟨-, u, hu, e⟩⟩ := setupReadDone_cases hc
    · rw [e]; exact done x
    all_goals exact memoryCanonical_of_calm e (done x)
  | result hc =>
    obtain ⟨x, -, -, ⟨-, e⟩ | ⟨-, e⟩⟩ := resultWordDone_cases hc <;> rw [e] <;> exact done x
  | rebuild => rcases startRebuild_cases s with e | ⟨u, hu, e⟩ <;> rw [e] <;> exact h
  | scan hc =>
    obtain ⟨x, -, -, ⟨-, e⟩ | ⟨-, hr, e⟩⟩ := scanReadDone_cases hc <;> rw [e]
    · exact done x
    · rcases scanWord_cases (scanCell (portDone x s)) (portDone x s) with e | ⟨-, ⟨-, e⟩ | ⟨-, e⟩⟩ <;>
        refine memoryCanonical_of_calm e ?_
      · exact done x
      · exact done x
      · unfold claimScan; split <;> exact done x
  | orphan | unit => exact done _
  | claim | cold | coldEnd | warm | processor | ask | apply => exact h

/-! ### The transfers keep to their addresses -/

/-- What a claimant claims reads the setup alone. -/
theorem ownAddress_of_same {s t : State} (ha : t.setup.active = s.setup.active) (hk : t.setup.strap = s.setup.strap)
    (x : PortTransfer) : ownAddress t x ↔ ownAddress s x := by
  unfold ownAddress
  cases x.owner <;> simp only [ha, hk]

/-- The same setup, and at each claimant the transfer of before or a proper new one. -/
theorem claimsInPlace_of_same {s t : State} (h : claimsInPlace s) (ha : t.setup.active = s.setup.active)
    (hk : t.setup.strap = s.setup.strap)
    (hp : ∀ x, t.port = some x → s.port = some x ∨ if x.orphan then s.setup.active = none else ownAddress s x)
    (h1 : ∀ x, t.setupClaim = some x → s.setupClaim = some x ∨
      ownAddress s x ∧ x.orphan = false ∧ (x.owner = .setupRead ∨ x.owner = .setupResult ∨ x.owner = .setupClear))
    (h2 : ∀ x, t.reportClaim = some x → s.reportClaim = some x ∨
      ownAddress s x ∧ x.orphan = false ∧ x.owner = .status)
    (h3 : ∀ x, t.composerClaim = some x → s.composerClaim = some x ∨
      ownAddress s x ∧ x.orphan = false ∧ (x.owner = .composer ∨ x.owner = .mapScan))
    (h4 : ∀ c ∈ t.report.statusLeft, c ∈ s.report.statusLeft ∨
      ∀ u, s.setup.active = some u → formSize u ≤ c.1 ∧ c.1 ≤ mirrorPos u) : claimsInPlace t := by
  obtain ⟨k0, k1, k2, k3, k4⟩ := h
  have own := ownAddress_of_same ha hk
  refine ⟨fun x hx => ?_, fun x hx => ?_, fun x hx => ?_, fun x hx => ?_, fun u hu c hc => ?_⟩
  · rw [own, ha]; exact (hp x hx).elim (k0 x) id
  · rw [own]; exact (h1 x hx).elim (k1 x) id
  · rw [own]; exact (h2 x hx).elim (k2 x) id
  · rw [own]; exact (h3 x hx).elim (k3 x) id
  · rw [ha] at hu; exact (h4 c hc).elim (k4 u hu c) (· u hu)

/-- A change of the port alone. -/
theorem claimsInPlace_port {s : State} (h : claimsInPlace s) (p : Option PortTransfer) (m : Memory)
    (hp : ∀ x, p = some x → if x.orphan then s.setup.active = none else ownAddress s x) :
    claimsInPlace { s with port := p, mem := m } :=
  claimsInPlace_of_same h rfl rfl (fun x hx => .inr (hp x hx)) (fun _ => .inl) (fun _ => .inl) (fun _ => .inl)
    (fun _ => .inl)

theorem claimsInPlace_portDone {s : State} (t : PortTransfer) (h : claimsInPlace s) : claimsInPlace (portDone t s) :=
  claimsInPlace_port h none _ (by simp)

/-- A change of the composer's claim and the map. -/
theorem claimsInPlace_composer {s : State} (h : claimsInPlace s) (c : Option PortTransfer) (m : FieldMap)
    (hc : ∀ x, c = some x → s.composerClaim = some x ∨
      ownAddress s x ∧ x.orphan = false ∧ (x.owner = .composer ∨ x.owner = .mapScan)) :
    claimsInPlace { s with composerClaim := c, map := m } :=
  claimsInPlace_of_same h rfl rfl (fun _ => .inl) (fun _ => .inl) (fun _ => .inl) hc (fun _ => .inl)

/-- A claim of the setup unit on its block (R195, R197). -/
theorem claimsInPlace_claimSetup {s : State} (h : claimsInPlace s) (o : Owner) (i : Nat) (op : MemOp)
    (ho : o = .setupRead ∧ op = .read ∨ o = .setupResult ∧ i = 30 ∨ o = .setupClear ∧ i = 31) :
    claimsInPlace (claimSetup o i op s) := by
  refine claimsInPlace_of_same h rfl rfl (fun _ => .inl) (fun x hx => .inr ?_) (fun _ => .inl) (fun _ => .inl)
    (fun _ => .inl)
  cases hx
  rcases ho with ⟨rfl, rfl⟩ | ⟨rfl, rfl⟩ | ⟨rfl, rfl⟩ <;> simp [ownAddress]

/-- The cells of the status pass lie at positions N to M. -/
theorem claimsInPlace_statusQueued {s : State} {u : SetupBlock} {l : List (Nat × Word)} (h : claimsInPlace s)
    (hu : s.setup.active = some u) (hv : validate s.setup.strap u = 0x0001#16)
    (hl : ∀ c ∈ l, formSize u ≤ c.1 ∧ c.1 ≤ mirrorPos u) : claimsInPlace (statusQueued u l s) := by
  refine claimsInPlace_of_same h rfl rfl (fun _ => .inl) (fun _ => .inl) (fun x hx => .inr ?_) (fun _ => .inl)
    (fun c hc => .inr fun v hv' => ?_)
  · obtain ⟨d, hd, rfl⟩ := Option.map_eq_some_iff.mp hx
    obtain ⟨h1, h2⟩ := hl d (List.mem_of_head? hd)
    refine ⟨fun v hv' => ?_, rfl, rfl⟩
    rw [hu] at hv'; cases hv'
    exact formPos_status _ u hv d.1 h1 h2
  · rw [hu] at hv'; cases hv'; exact hl c hc

theorem mem_fromPos {p : Nat} {ws : List Word} {c : Nat × Word} (h : c ∈ fromPos p ws) :
    p ≤ c.1 ∧ c.1 < p + ws.length := by
  induction ws generalizing p with
  | nil => cases h
  | cons w r ih =>
    rcases List.mem_cons.mp h with rfl | h
    · simp
    · obtain ⟨h1, h2⟩ := ih h
      rw [List.length_cons]; omega

/-- The status row fills its C columns (R182). -/
theorem statusRow_length (cols : Nat) (k : Lock) (on : Bool) (x : Nat) (h : 24 ≤ cols) :
    (statusRow cols k on x).length = cols := by
  have hk : (lockCells k).length = 8 := by cases k <;> rfl
  have hi : (insertCells on).length = 3 := by cases on <;> rfl
  simp [statusRow, hk, hi, cursorCells]; omega

/-- The status image lies at positions N to M (R182). -/
theorem statusImage_place {k : BitVec 4} {u : SetupBlock} (s : State) (h : validate k u = 0x0001#16) :
    ∀ c ∈ statusImage u s, formSize u ≤ c.1 ∧ c.1 ≤ mirrorPos u := by
  intro c hc
  obtain ⟨-, -, -, -, -, h24⟩ := valid_geometry k u h
  rcases List.mem_append.mp hc with hc | hc
  · split at hc
    next hon =>
      have := mem_fromPos hc
      rw [statusRow_length _ _ _ _ (h24 hon)] at this
      simp only [mirrorPos, hon, if_true]; omega
    next => cases hc
  · rw [List.mem_singleton.mp hc]
    exact ⟨formSize_le_mirror u, Nat.le_refl _⟩

theorem claimsInPlace_learnTransfer {s : State} (t : PortTransfer) (h : claimsInPlace s) :
    claimsInPlace (learnTransfer t s) := by
  rcases learnTransfer_cases t s with ⟨he, -⟩ | ⟨u, p, -, -, he⟩ <;> rw [he]
  · exact h
  · rcases upkeep_cases p (readWord s.mem t.addr) s with ⟨-, -, e⟩ | ⟨m, -, -, e⟩ | ⟨c, -, hc, e⟩ <;>
      refine claimsInPlace_of_calm e ?_
    · exact h
    · exact claimsInPlace_composer h s.composerClaim m fun _ => .inl
    · refine claimsInPlace_composer h c _ fun x hx => .inl ?_
      rcases hc with rfl | rfl
      · exact hx
      · cases hx

/-- Every move keeps the transfers at their addresses. -/
theorem claimsInPlace_move {s t : State} (hm : MapMove s t) (hv : setupValid s) (h : claimsInPlace s) :
    claimsInPlace t := by
  obtain ⟨hport, hset, hrep, hcom, hleft⟩ := h
  have h : claimsInPlace s := ⟨hport, hset, hrep, hcom, hleft⟩
  have scan (y : State) (u : SetupBlock) (p : Nat) (x : PortTransfer) (hx : some (scanClaim u p) = some x) :
      ownAddress y x ∧ x.orphan = false ∧ (x.owner = .composer ∨ x.owner = .mapScan) := by
    cases hx; exact ⟨rfl, rfl, .inr rfl⟩
  cases hm with
  | calm e => exact claimsInPlace_of_calm e h
  | pass =>
    rcases beginPass_cases s with e | ⟨u, hu, e⟩
    · rwa [e]
    · exact claimsInPlace_of_calm e (claimsInPlace_statusQueued h hu (hv.1 u hu) (statusImage_place s (hv.1 u hu)))
  | status hc =>
    obtain ⟨x, -, -, ⟨-, e⟩ | ⟨-, u, hu, e⟩⟩ := statusDone_cases hc
    · rw [e]; exact claimsInPlace_portDone x h
    · exact claimsInPlace_of_calm e (claimsInPlace_statusQueued (claimsInPlace_portDone x h) hu (hv.1 u hu)
        fun c hc => hleft u hu c (List.mem_of_mem_tail hc))
  | claim a op hu =>
    refine claimsInPlace_composer h _ s.map fun x hx => .inr ?_
    cases hx; exact ⟨trivial, rfl, .inl rfl⟩
  | cold =>
    refine ⟨fun x hx => ?_, fun x hx => (nomatch hx), fun x hx => (nomatch hx), fun x hx => (nomatch hx),
      fun u hu => (nomatch hu)⟩
    obtain ⟨y, -, rfl⟩ := Option.map_eq_some_iff.mp (hx : s.port.map orphaned = some x)
    rfl
  | coldEnd k hc =>
    obtain ⟨ha, -, h1, h2, h3, hq⟩ := hv.2.1 hc
    have none_of {c : Option PortTransfer} (hn : c = none) {x : PortTransfer} (hx : c = some x) : False := by
      simp [hn] at hx
    refine ⟨fun x hx => ?_, fun x hx => (none_of h1 hx).elim, fun x hx => (none_of h2 hx).elim,
      fun x hx => (none_of h3 hx).elim, fun u hu => ?_⟩
    · have hx' := hport x hx
      split
      next => exact ha
      next ho =>
        rw [if_neg ho] at hx'
        unfold ownAddress at hx' ⊢
        rcases hq x hx with hq | ⟨i, m, r, hq⟩ | ⟨l, d, r, hq⟩ | ⟨r, hq⟩
        · exact absurd hq ho
        · simp only [hq]
        · simpa only [hq] using hx'
        · simp only [hq]
    · rw [show (coldEnded k s).setup.active = s.setup.active from rfl, ha] at hu; cases hu
  | warm =>
    refine claimsInPlace_port h _ s.mem fun x hx => ?_
    obtain ⟨y, hy, rfl⟩ := Option.map_eq_some_iff.mp hx
    have hy' := hport y hy
    dsimp only
    split
    next ho => rwa [if_pos ho] at hy'
    next ho =>
      rw [if_neg ho] at hy'
      unfold ownAddress at hy' ⊢
      cases ho : y.owner with
      | processor | mergeWrite | composer => simp only [ownerAtWarm]
      | _ => simpa only [ho, ownerAtWarm] using hy'
  | processor tr r =>
    refine claimsInPlace_port h _ s.mem fun x hx => ?_
    cases hx
    cases r <;> simp [grantedTransfer, ownAddress]
  | internal =>
    rcases grantInternal_cases s with ⟨x, hx, e⟩ | ⟨x, hx, e⟩ | ⟨x, hx, e⟩ | e
    · obtain ⟨ho, hf, -⟩ := hset x hx
      exact claimsInPlace_of_calm e (claimsInPlace_of_same h rfl rfl
        (fun y hy => .inr (by cases hy; simpa [hf] using ho)) (fun y hy => (nomatch hy)) (fun _ => .inl) (fun _ => .inl)
        (fun _ => .inl))
    · obtain ⟨ho, hf, -⟩ := hrep x hx
      exact claimsInPlace_of_calm e (claimsInPlace_of_same h rfl rfl
        (fun y hy => .inr (by cases hy; simpa [hf] using ho)) (fun _ => .inl) (fun y hy => (nomatch hy)) (fun _ => .inl)
        (fun _ => .inl))
    · obtain ⟨ho, hf, -⟩ := hcom x hx
      exact claimsInPlace_of_calm e (claimsInPlace_of_same h rfl rfl
        (fun y hy => .inr (by cases hy; simpa [hf] using ho)) (fun _ => .inl) (fun _ => .inl) (fun y hy => (nomatch hy))
        (fun _ => .inl))
    · rwa [e]
  | merge hc =>
    obtain ⟨x, l, d, o, -, -, ⟨-, e⟩ | ⟨-, w, e⟩⟩ := mergeReadDone_cases hc <;> rw [e]
    · exact claimsInPlace_portDone x h
    · exact claimsInPlace_port h _ s.mem fun y hy => by cases hy; trivial
  | orphan | unit => exact claimsInPlace_portDone _ h
  | learn hp ho h1 => exact claimsInPlace_learnTransfer _ (claimsInPlace_of_calm h1 (claimsInPlace_portDone _ h))
  | ask =>
    exact claimsInPlace_of_same h rfl rfl (fun _ => .inl) (fun _ => .inl) (fun _ => .inl) (fun _ => .inl)
      (fun _ => .inl)
  | apply =>
    refine claimsInPlace_claimSetup (claimsInPlace_of_same h rfl rfl (fun _ => .inl) (fun _ => .inl) (fun _ => .inl)
      (fun _ => .inl) (fun _ => .inl)) _ _ _ (.inl ⟨rfl, rfl⟩)
  | setupRead hc =>
    obtain ⟨x, hp, hown, hx⟩ := setupReadDone_cases hc
    have hd := claimsInPlace_portDone x h
    obtain ⟨-, e⟩ | ⟨-, i, e⟩ | ⟨-, r, e⟩ | ⟨ho, u, hu, e⟩ := hx
    · rwa [e]
    · exact claimsInPlace_of_calm e (claimsInPlace_claimSetup hd _ _ _ (.inl ⟨rfl, rfl⟩))
    · exact claimsInPlace_of_calm e (claimsInPlace_claimSetup hd _ _ _ (.inr (.inl ⟨rfl, rfl⟩)))
    · refine claimsInPlace_of_calm e (claimsInPlace_claimSetup ⟨fun y hy => (by cases hy), fun y hy => ?_,
        fun y hy => (by cases hy), fun y hy => scan _ u 0 y hy, fun v _ c hc => (by cases hc)⟩ _ _ _
        (.inr (.inl ⟨rfl, rfl⟩)))
      obtain ⟨h1, h2, h3⟩ := hset y hy
      refine ⟨?_, h2, h3⟩
      unfold ownAddress at h1 ⊢
      rcases h3 with h3 | h3 | h3 <;> simp only [h3] at h1 ⊢ <;> exact h1
  | result hc =>
    obtain ⟨x, -, -, ⟨-, e⟩ | ⟨-, e⟩⟩ := resultWordDone_cases hc <;> rw [e]
    · exact claimsInPlace_portDone x h
    · exact claimsInPlace_claimSetup (claimsInPlace_portDone x h) _ _ _ (.inr (.inr ⟨rfl, rfl⟩))
  | rebuild =>
    rcases startRebuild_cases s with e | ⟨u, hu, e⟩ <;> rw [e]
    · exact h
    · exact claimsInPlace_composer h _ _ fun x hx => .inr (scan s u 0 x hx)
  | scan hc =>
    obtain ⟨x, -, -, ⟨-, e⟩ | ⟨-, hr, e⟩⟩ := scanReadDone_cases hc <;> rw [e]
    · exact claimsInPlace_portDone x h
    · have hd := claimsInPlace_portDone x h
      rcases scanWord_cases (scanCell (portDone x s)) (portDone x s) with e | ⟨-, ⟨-, e⟩ | ⟨-, e⟩⟩ <;>
        refine claimsInPlace_of_calm e ?_
      · exact claimsInPlace_composer hd none _ (by simp)
      · exact claimsInPlace_composer hd s.composerClaim _ fun _ => .inl
      · unfold claimScan; split
        · exact claimsInPlace_composer hd s.composerClaim _ fun _ => .inl
        · exact claimsInPlace_composer hd _ _ fun y hy => .inr (scan _ _ _ y hy)

end Sys2Proof.Machine
end

section
/-! The map matches memory (R10, R20). -/

namespace Sys2Proof.Machine

/-! ### What a completed transfer leaves of the form area -/

theorem readWord_memAfter {m : Memory} {t : PortTransfer} {a : WordAddr} (hw : Memory.wf m)
    (h : t.op = .read ∨ a ≠ t.addr) : readWord (memAfter m t) a = readWord m a := by
  unfold memAfter
  cases hop : t.op with
  | read => rfl
  | write l w => exact readWord_writeLanes_other m t.addr a l w hw (h.resolve_left (by simp [hop]))

/-- The transfer changes no cell of the form area. -/
def offForm (s : State) (t : PortTransfer) : Prop :=
  ∀ u, s.setup.active = some u → t.op = .read ∨ formPos u t.addr = none

theorem offForm_readWord {s : State} {t : PortTransfer} {u : SetupBlock} {q : Nat} (ho : offForm s t)
    (hw : memoryCanonical s) (hu : s.setup.active = some u) (hv : validate s.setup.strap u = 0x0001#16)
    (hq : q < formSize u) : readWord (memAfter s.mem t) (cellAddr u q) = readWord s.mem (cellAddr u q) := by
  refine readWord_memAfter hw ((ho u hu).imp id fun hf he => ?_)
  rw [← he, formPos_cellAddr _ u hv q hq] at hf
  cases hf

/-- A transfer on the port that is neither the processor's nor the composer's, or was granted before a cold reset,
changes no cell of the form area. -/
theorem offForm_port {s : State} {t : PortTransfer} (hv : setupValid s) (hc : claimsInPlace s) (hp : s.port = some t)
    (ho : t.orphan = true ∨ t.owner = .status ∨ t.owner = .setupRead ∨ t.owner = .setupResult ∨
      t.owner = .setupClear ∨ t.owner = .mapScan ∨ ∃ l d r, t.owner = .mergeRead l d r) : offForm s t := by
  intro u hu
  have h := hc.1 t hp
  split at h
  next => rw [hu] at h; cases h
  next hno =>
    unfold ownAddress at h
    rcases ho with ho | ho | ho | ho | ho | ho | ⟨_, _, _, ho⟩
    · exact absurd ho hno
    all_goals simp only [ho] at h
    · exact .inr (h u hu)
    · exact .inl h
    · rw [h]; exact .inr (formPos_setup _ u (hv.1 u hu) 30 (by decide))
    · rw [h]; exact .inr (formPos_setup _ u (hv.1 u hu) 31 (by decide))
    · exact .inl h
    · exact .inl h

/-! ### The map and memory -/

theorem mapMatches_of_same {s t : State} (h : mapMatches s) (hm : t.map = s.map)
    (ha : t.setup.active = s.setup.active)
    (hmem : ∀ u, s.setup.active = some u → ∀ p < formSize u,
      readWord t.mem (cellAddr u p) = readWord s.mem (cellAddr u p)) : mapMatches t := by
  intro u hu p hp hs
  rw [ha] at hu
  rw [hm] at hs ⊢
  rw [hmem u hu p hp]
  exact h u hu p hp hs

theorem mapMatches_portDone {s : State} {t : PortTransfer} (hw : memoryCanonical s) (hv : setupValid s)
    (h : mapMatches s) (ho : offForm s t) : mapMatches (portDone t s) :=
  mapMatches_of_same h rfl rfl fun u hu _ hp => offForm_readWord ho hw hu (hv.1 u hu) hp

/-- Outside CURRENT and REBUILDING the map promises nothing. -/
theorem mapMatches_silent {t : State} (h1 : t.map.state ≠ .current) (h2 : t.map.state ≠ .rebuilding) : mapMatches t :=
  fun _ _ _ _ hs => (hs.elim h1 fun h => h2 h.1).elim

/-- Nor does it at the start of a rebuild. -/
theorem mapMatches_started {t : State} (h1 : t.map.state = .rebuilding) (h2 : t.map.scanPoint = 0) : mapMatches t := by
  intro u _ p _ hs
  simp [h1, h2] at hs

/-- A transfer of the processor or the composer: the map follows the write at the cell it has changed, and every other
cell is as it was (R10 to R16, R20). -/
theorem mapMatches_learned {s s1 : State} {t : PortTransfer} (hw : memoryCanonical s) (hv : setupValid s)
    (h : mapMatches s) (h1 : mapPart s1 = mapPart (portDone t s)) : mapMatches (learnTransfer t s1) := by
  have hmem : s1.mem = memAfter s.mem t := mem_of_calm h1
  have hact : s1.setup.active = s.setup.active := (active_of_calm h1).trans rfl
  have hst : s1.map.state = s.map.state := (mapState_of_calm h1).trans rfl
  have htab : s1.map.table = s.map.table := congrArg (fun x => x.map.table) h1
  have hsp : s1.map.scanPoint = s.map.scanPoint := congrArg (fun x => x.map.scanPoint) h1
  rcases learnTransfer_cases t s1 with ⟨he, ho⟩ | ⟨u, p, hu, hf, he⟩
  · rw [he]
    refine mapMatches_of_calm h1 (mapMatches_portDone hw hv h fun u hu => ?_)
    exact ho.imp id fun ho => ho u (hact.trans hu)
  rw [he]
  obtain ⟨hp, hcell⟩ := cellAddr_formPos u t.addr p hf
  have hus : s.setup.active = some u := hact.symm.trans hu
  have other {q : Nat} (hq : q < formSize u) (hne : q ≠ p) :
      readWord s1.mem (cellAddr u q) = readWord s.mem (cellAddr u q) := by
    rw [hmem]
    refine readWord_memAfter hw (.inr fun e => hne ?_)
    exact cellAddr_inj _ u (hv.1 u hus) q p hq hp (e.trans hcell.symm)
  rcases upkeep_cases p (readWord s1.mem t.addr) s1 with ⟨hc, hr, e⟩ | ⟨m, -, hj, e⟩ | ⟨c, -, -, e⟩
  · refine mapMatches_of_calm e fun v hv' q hq hs => ?_
    rw [hu] at hv'; cases hv'
    obtain ⟨hrb, hlt⟩ := hs.resolve_left hc
    have hne : q ≠ p := by have := hr hrb; omega
    rw [other hq hne, htab]
    exact h u hus q hq (.inr ⟨hst ▸ hrb, hsp ▸ hlt⟩)
  · refine mapMatches_of_calm e fun v hv' q hq hs => ?_
    rw [hu] at hv'; cases hv'
    obtain ⟨hms, hmp, hme⟩ := judgeWrite_entryAt p _ _ m hj q
    change m.state = _ ∨ m.state = _ ∧ q < m.scanPoint at hs
    rw [hms, hmp, hst, hsp] at hs
    show entryAt m.table q = _
    rw [hme]
    by_cases hqp : q = p
    · subst hqp; rw [if_pos rfl, hcell]
    · rw [if_neg hqp, other hq hqp, htab]
      exact h u hus q hq hs
  · exact mapMatches_of_calm e (mapMatches_silent (by simp [mapLimited]) (by simp [mapLimited]))

/-- The entries after the cell at the scan point has been taken in (R19). -/
theorem entryAt_scanned {s : State} (w : Word) (h : mapOrdered s) (hs : s.map.state = .rebuilding) (q : Nat) :
    entryAt (scanned w s).map.table q =
      if q = s.map.scanPoint then (if isMark w then some ⟨q, w⟩ else none) else entryAt s.map.table q := by
  obtain ⟨-, -, -, he⟩ := ((mapOrdered_iff s).mp h).2.2 hs
  have hnone : entryAt s.map.table s.map.scanPoint = none := by
    rw [entryAt, List.find?_eq_none]
    intro e hm
    have := (he e hm).1
    simp; omega
  unfold scanned
  by_cases hw : isMark w = true
  · simp only [if_pos hw, entryAt, List.find?_append] at hnone ⊢
    by_cases hq : q = s.map.scanPoint
    · subst hq; simp [hnone]
    · have : (s.map.scanPoint == q) = false := by simp; omega
      simp [hq, this]
  · simp only [if_neg hw]
    by_cases hq : q = s.map.scanPoint
    · subst hq; simpa using hnone
    · simp [hq]

/-- A read of the scan takes in the word that memory holds at the scan point (R19, R20). -/
theorem mapMatches_scanWord {s : State} (ho : mapOrdered s) (h : mapMatches s) (hs : s.map.state = .rebuilding) :
    mapMatches (scanWord (scanCell s) s) := by
  have taken (u : SetupBlock) (hu : s.setup.active = some u) (q : Nat) (hq : q < formSize u)
      (hlt : q < s.map.scanPoint + 1) :
      entryAt (scanned (scanCell s) s).map.table q =
        if isMark (readWord s.mem (cellAddr u q)) then some ⟨q, readWord s.mem (cellAddr u q)⟩ else none := by
    rw [entryAt_scanned _ ho hs]
    by_cases hqs : q = s.map.scanPoint
    · have hc : scanCell s = readWord s.mem (cellAddr u q) := by simp only [scanCell, hu, hqs]
      rw [if_pos hqs, hc]
    · rw [if_neg hqs]
      exact h u hu q hq (.inr ⟨hs, by omega⟩)
  rcases scanWord_cases (scanCell s) s with e | ⟨-, ⟨hn, e⟩ | ⟨-, e⟩⟩
  · exact mapMatches_of_calm e (mapMatches_silent (by simp [mapLimited]) (by simp [mapLimited]))
  · refine mapMatches_of_calm e fun u hu q hq _ => ?_
    have : s.formN = formSize u := by
      have hu : s.setup.active = some u := hu
      simp [State.formN, hu]
    exact taken u hu q hq (by omega)
  · obtain ⟨hm, hset⟩ := claimScan_map (scanned (scanCell s) s)
    have hmem : (claimScan (scanned (scanCell s) s)).mem = s.mem := by unfold claimScan; split <;> rfl
    refine mapMatches_of_calm e fun u hu q hq hc => ?_
    rw [hset] at hu
    rw [hm] at hc ⊢
    rw [hmem]
    rcases hc with hc | ⟨-, hc⟩
    · have hc : s.map.state = .current := hc
      simp [hs] at hc
    · exact taken u hu q hq hc

/-- Every move of a faithful map keeps it matching memory. -/
theorem mapMatches_move {s t : State} (hm : MapMove s t) (hw : memoryCanonical s) (hv : setupValid s)
    (ho : mapOrdered s) (hc : claimsInPlace s) (h : mapMatches s) : mapMatches t := by
  have done {x : PortTransfer} (hx : offForm s x) : mapMatches (portDone x s) := mapMatches_portDone hw hv h hx
  have same {y : State} (hm : y.map = s.map) (ha : y.setup.active = s.setup.active) (hmem : y.mem = s.mem) :
      mapMatches y := mapMatches_of_same h hm ha fun _ _ _ _ => by rw [hmem]
  cases hm with
  | calm e => exact mapMatches_of_calm e h
  | pass =>
    have e := besidesStatus_beginPass s
    exact same (map_besides e) (congrArg (fun x => x.setup.active) e) (mem_besides e)
  | status hcs =>
    obtain ⟨x, hp, hown, hx⟩ := statusDone_cases hcs
    have hd := done (offForm_port hv hc hp (.inr (.inl hown)))
    obtain ⟨-, e⟩ | ⟨-, u, -, e⟩ := hx
    · rwa [e]
    · exact mapMatches_of_calm e (mapMatches_of_same hd rfl rfl fun _ _ _ _ => rfl)
  | cold => exact fun u hu => (by cases hu)
  | internal =>
    rcases grantInternal_cases s with ⟨x, -, e⟩ | ⟨x, -, e⟩ | ⟨x, -, e⟩ | e
    iterate 3 exact mapMatches_of_calm e (same rfl rfl rfl)
    · rwa [e]
  | merge hcs =>
    obtain ⟨x, l, d, o, hp, hown, ⟨-, e⟩ | ⟨-, w, e⟩⟩ := mergeReadDone_cases hcs <;> rw [e]
    · exact done (offForm_port hv hc hp (by simp [hown]))
    · exact same rfl rfl rfl
  | orphan hp hor => exact done (offForm_port hv hc hp (.inl hor))
  | unit hp hown => exact done (offForm_port hv hc hp (by simp [hown]))
  | learn hp hor h1 => exact mapMatches_learned hw hv h h1
  | setupRead hcs =>
    obtain ⟨x, hp, hown, hx⟩ := setupReadDone_cases hcs
    have hd := done (offForm_port hv hc hp (by simp [hown]))
    obtain ⟨-, e⟩ | ⟨-, i, e⟩ | ⟨-, r, e⟩ | ⟨-, u, -, e⟩ := hx
    · rwa [e]
    · exact mapMatches_of_calm e (mapMatches_of_same hd rfl rfl fun _ _ _ _ => rfl)
    · exact mapMatches_of_calm e (mapMatches_of_same hd rfl rfl fun _ _ _ _ => rfl)
    · exact mapMatches_of_calm e (mapMatches_started rfl rfl)
  | result hcs =>
    obtain ⟨x, hp, hown, hx⟩ := resultWordDone_cases hcs
    have hd := done (offForm_port hv hc hp (by simp [hown]))
    obtain ⟨-, e⟩ | ⟨-, e⟩ := hx <;> rw [e]
    · exact hd
    · exact mapMatches_of_same hd rfl rfl fun _ _ _ _ => rfl
  | rebuild =>
    rcases startRebuild_cases s with e | ⟨u, -, e⟩ <;> rw [e]
    · exact h
    · exact mapMatches_started rfl rfl
  | scan hcs =>
    obtain ⟨x, hp, hown, hx⟩ := scanReadDone_cases hcs
    have hd := done (offForm_port hv hc hp (by simp [hown]))
    obtain ⟨-, e⟩ | ⟨-, hr, e⟩ := hx <;> rw [e]
    · exact hd
    · exact mapMatches_scanWord (mapOrdered_of_same ho rfl rfl) hd hr
  | claim | coldEnd | warm | processor | ask | apply => exact same rfl rfl rfl

/-- Settles O59: each part of the faithfulness is kept by every move. -/
theorem fieldMapMatchesFormArea : Obligations.FieldMapMatchesFormArea := by
  intro s t hs h
  refine step_keeps (P := mapFaithful) (fun x y m ⟨hw, hv, ho, hc, hm⟩ => ?_) h hs
  exact ⟨memoryCanonical_move m hw, setupValid_move m hv, mapOrdered_move m hv ho, claimsInPlace_move m hv hc,
    mapMatches_move m hw hv ho hc hm⟩

end Sys2Proof.Machine
end

section
/-! Cold reset (R200), and the processor's reads with the read of a byte merge (R48, R60, R61). -/

namespace Sys2Proof.Machine

/-! ### Cold reset -/

theorem coldState_hand {s : State} {h : InHand} {why : HoldReason} (hi : s.inHand = some h)
    (hs : h.standing = .held why) : (coldState s).inHand = none := by
  simp [coldState, hi, handAtCold, hs]

theorem execColdReset_asserts {s : State} (h : s.coldAsserted = false) : exec .coldReset s = .next (coldState s) := by
  show Host.Outcome.next (if s.coldAsserted then s else coldState s) = _
  rw [h, if_neg (by simp)]

/-- Settles O3: the state cold reset asserts has its values as they are written down, and its end is one event. -/
theorem coldResetAndItsEnd : Obligations.ColdResetAndItsEnd := by
  refine ⟨fun s hs => ⟨coldState s, execColdReset_asserts hs, ?_⟩, fun k s hc hj => ?_⟩
  · have slots (i : Fin 4) : getSlot (coldState s).slots i = ScanSlot.cold := by fin_cases i <;> rfl
    have receivers : ∀ r ∈ [(coldState s).keyboard, (coldState s).scanner], r = Receiver.cold := by
      intro r hr
      rcases List.mem_cons.mp hr with rfl | hr
      · rfl
      · rw [List.mem_singleton.mp hr]; rfl
    iterate 7 refine ⟨rfl, ?_⟩
    refine ⟨fun h hi ⟨why, hw⟩ => coldState_hand hi hw, ?_⟩
    iterate 10 refine ⟨rfl, ?_⟩
    refine ⟨fun r hr => by rw [receivers r hr]; exact ⟨rfl, rfl, rfl, rfl⟩, ?_⟩
    iterate 3 refine ⟨rfl, ?_⟩
    refine ⟨slots, ?_⟩
    iterate 26 refine ⟨rfl, ?_⟩
    rfl
  · exact event_effect s.coldAsserted (coldEnded k) s hc hj

/-! ### The completion of the processor's transfer -/

section
variable {s : State} {t : PortTransfer} (hp : s.port = some t) (ho : t.orphan = false)
include hp ho

theorem transferDone_processor {i : Option (Fin 32)} {m o : Bool} (h : t.owner = .processor i m o) :
    transferDone s = processorDone i m o t s := by
  simp [transferDone, hp, ho, h]

theorem transferDone_mergeWrite {o : Bool} (h : t.owner = .mergeWrite o) :
    transferDone s = processorDone none false o t s := by
  simp [transferDone, hp, ho, h]

end

theorem carriesProcessor_of {s : State} {t : PortTransfer} (hp : s.port = some t)
    (h : (∃ i m o, t.owner = .processor i m o) ∨ ∃ o, t.owner = .mergeWrite o) : carriesProcessor s = true := by
  rcases h with ⟨i, m, o, h⟩ | ⟨o, h⟩ <;> simp [carriesProcessor, hp, h]

/-- Only a posting of EMPTY is owed at a completion (R53). -/
theorem takeOwedEmpty_none {s : State} (h : s.posting ≠ some .empty) : takeOwedEmpty s = s := if_neg h

/-- Ready given to the transfer in hand. -/
theorem giveReady_granted {s : State} {tr : Transfer} (a : Answer) (h : s.inHand = some ⟨tr, .granted⟩) :
    giveReady true a s = { s with inHand := none, answer := some a } := by
  simp [giveReady, leaveHand, h]

theorem readAnswer_eq (m : Bool) (w : Word) :
    readAnswer m w = if m = true ∧ isMark w = false then 0x0020#16 else w := by
  unfold readAnswer
  cases m <;> cases isMark w <;> rfl

/-! ### The byte merge -/

theorem lowByte_merged_low (v old : Word) : (mergedWord .low v old).setWidth 8 = v.setWidth 8 := by
  apply BitVec.eq_of_getLsbD_eq
  intro i hi
  simp only [mergedWord, BitVec.getLsbD_setWidth, BitVec.getLsbD_or, BitVec.getLsbD_and]
  interval_cases i <;> simp

theorem highByte_merged_low (v old : Word) : ((mergedWord .low v old) >>> 8).setWidth 8 = (old >>> 8).setWidth 8 := by
  apply BitVec.eq_of_getLsbD_eq
  intro i hi
  simp only [mergedWord, BitVec.getLsbD_setWidth, BitVec.getLsbD_ushiftRight, BitVec.getLsbD_or, BitVec.getLsbD_and]
  interval_cases i <;> simp

theorem lowByte_merged_high (v old : Word) : (mergedWord .high v old).setWidth 8 = old.setWidth 8 := by
  apply BitVec.eq_of_getLsbD_eq
  intro i hi
  simp only [mergedWord, BitVec.getLsbD_setWidth, BitVec.getLsbD_or, BitVec.getLsbD_and]
  interval_cases i <;> simp

theorem highByte_merged_high (v old : Word) : ((mergedWord .high v old) >>> 8).setWidth 8 = (v >>> 8).setWidth 8 := by
  apply BitVec.eq_of_getLsbD_eq
  intro i hi
  simp only [mergedWord, BitVec.getLsbD_setWidth, BitVec.getLsbD_ushiftRight, BitVec.getLsbD_or, BitVec.getLsbD_and]
  interval_cases i <;> simp

/-- The bytes of a word of memory, the low one at the even address (log 3). -/
theorem lowByte_readWord (m : Memory) (a : WordAddr) : (readWord m a).setWidth 8 = readByte m (byteAddr a) := by
  show (readByte m (byteAddr a + 1) ++ readByte m (byteAddr a) : BitVec (8 + 8)).setWidth 8 = _
  apply BitVec.eq_of_getLsbD_eq
  intro i hi
  rw [BitVec.getLsbD_setWidth, BitVec.getLsbD_append]
  simp [hi]

theorem highByte_readWord (m : Memory) (a : WordAddr) :
    ((readWord m a) >>> 8).setWidth 8 = readByte m (byteAddr a + 1) := by
  show ((readByte m (byteAddr a + 1) ++ readByte m (byteAddr a) : BitVec (8 + 8)) >>> 8).setWidth 8 = _
  apply BitVec.eq_of_getLsbD_eq
  intro i hi
  rw [BitVec.getLsbD_setWidth, BitVec.getLsbD_ushiftRight, BitVec.getLsbD_append]
  simp [hi]

/-- Settles O13: the two completions are one event each, and the merged word is read byte by byte. -/
theorem processorReadsComplete : Obligations.ProcessorReadsComplete := by
  refine ⟨fun s tr a masked hj hi hpost hp => ?_, fun s a l v owed hj hl hp => ?_⟩
  · have he : transferDone s =
        { s with
          port := none, inHand := none,
          answer := some (.word (if masked = true ∧ isMark (readWord s.mem a) = false then 0x0020#16
            else readWord s.mem a)) } := by
      rw [transferDone_processor hp rfl rfl, ← readAnswer_eq]
      unfold processorDone
      dsimp only [tellBlocks]
      rw [giveReady_granted (s := portDone _ s) _ hi]
      exact (takeOwedEmpty_none (by exact hpost)).trans rfl
    rw [← he]
    exact event_effect (carriesProcessor s) transferDone s (carriesProcessor_of hp (.inl ⟨_, _, _, rfl⟩))
      (by rw [he]; exact hj)
  · have he : mergeReadDone s =
        { s with
          port := some
            { owner := .mergeWrite owed, addr := a, op := .write .word (mergedWord l v (readWord s.mem a)),
              orphan := false } } := by
      simp [mergeReadDone, hp]
    obtain ⟨t, ht, hb⟩ := event_effect (carriesMergeRead s) mergeReadDone s (by simp [carriesMergeRead, hp])
      (by rw [he]; exact hj)
    refine ⟨t, _, ht, hb.trans (by rw [he]), ?_⟩
    cases l with
    | word => exact absurd rfl hl
    | low => exact ⟨lowByte_merged_low _ _, (highByte_merged_low _ _).trans (highByte_readWord _ _)⟩
    | high => exact ⟨(lowByte_merged_high _ _).trans (lowByte_readWord _ _), highByte_merged_high _ _⟩

end Sys2Proof.Machine
end

section
/-! The report words: what a read of word 0 or 16 latches, and how the live words are laid out (R167, R168, R185). -/

namespace Sys2Proof.Machine

/-- A read that the decoder gives to report word i is answered at once (R64). -/
theorem readReport_runs {s : State} {u : SetupBlock} {i : Fin 32} {cls : AccessClass} {l : Lanes} (hj : claimsJoined s)
    (hi : s.inHand = none) (hu : s.setup.active = some u)
    (hd : decideTransfer s { addr := reportAddr u i.val, lanes := l, cls := cls, access := .read } = .report i) :
    ∃ t, readReport i cls l s = .next t ∧
      besidesStatus t = besidesStatus (reportReadEffect i { s with answer := some (.word (reportValue i s)) }) := by
  have hf : takeIn { addr := reportAddr u i.val, lanes := l, cls := cls, access := .read } s =
      reportReadEffect i { s with answer := some (.word (reportValue i s)) } := by
    simp only [takeIn, hd, carryDecision, ← hi]
  unfold readReport
  simp only [hu]
  rw [← hf]
  exact event_effect _ _ _ (by simp [hi, hd]) (claimsJoined_takeIn _ hj)

/-! ### The codes of 12.4 -/

theorem setupStateCode_le (x : SetupState) : setupStateCode x ≤ 2 := by cases x <;> decide
theorem mapStateCode_le (x : MapState) : mapStateCode x ≤ 3 := by cases x <;> decide
theorem engineCode_le (x : Engine) : engineCode x ≤ 4 := by cases x <;> decide
theorem lockCode_le (x : Lock) : lockCode x ≤ 2 := by cases x <;> simp [lockCode]
theorem lockReasonCode_le (x : Lock) : lockReasonCode x ≤ 3 := by
  cases x with
  | system r => cases r <;> decide
  | _ => exact Nat.zero_le _
theorem lockErrorCode_le (x : Lock) : lockErrorCode x ≤ 7 := by
  cases x with
  | error c => cases c <;> decide
  | _ => exact Nat.zero_le _

/-- The fields of the STATE word do not overlap. -/
theorem stateWord_toNat (s : State) :
    (stateWord s).toNat =
      setupStateCode s.setup.state + 4 * mapStateCode s.map.state + 16 * engineCode s.composer.engine +
        256 * lockCode s.lock + 1024 * lockReasonCode s.lock + 4096 * lockErrorCode s.lock +
        32768 * (if s.composer.insertMode then 1 else 0) := by
  have h1 := setupStateCode_le s.setup.state
  have h2 := mapStateCode_le s.map.state
  have h3 := engineCode_le s.composer.engine
  have h4 := lockCode_le s.lock
  have h5 := lockReasonCode_le s.lock
  have h6 := lockErrorCode_le s.lock
  have h7 : (if s.composer.insertMode then 1 else 0) ≤ 1 := by split <;> omega
  rw [stateWord, BitVec.toNat_ofNat, Nat.mod_eq_of_lt]
  omega

/-- Settles O15: the two reads are the report unit's, and the words are the codes of 12.4 side by side. -/
theorem stateAndCauseReads : Obligations.StateAndCauseReads := by
  refine ⟨fun s u cls l hj hi hu => ⟨fun hd => ?_, fun hd => ?_⟩, fun s => ⟨?_, ?_⟩⟩
  · exact readReport_runs (i := 0) hj hi hu hd
  · exact readReport_runs (i := 16) hj hi hu hd
  · rw [stateWord_toNat]
    refine congrArg₂ (· + ·) ?_ rfl
    rw [Nat.add_assoc, Nat.add_assoc]
    refine congrArg₂ (· + ·) (congrArg₂ (· + ·) (congrArg₂ (· + ·) ?_ ?_) ?_) ?_
    · cases s.setup.state <;> rfl
    · cases s.map.state <;> rfl
    · cases s.composer.engine <;> rfl
    · cases s.lock with
      | opened => rfl
      | system r => cases r <;> rfl
      | error c => cases c <;> rfl
  · intro field dstat slot
    have hfield : fieldWord s = field := by
      unfold fieldWord field
      cases s.lookup s.composer.cursor with
      | none => rfl
      | some f => cases hm : f.mark <;> simp [hm]
    have hdstat : dstatWord s.report.intake = BitVec.ofNat 16 dstat := by
      unfold dstatWord dstat
      refine congrArg (BitVec.ofNat 16) (congrArg₂ (· + ·) (congrArg₂ (· + ·) ?_ ?_) rfl)
      · cases s.report.intake.state <;> rfl
      · cases s.report.intake.completion <;> rfl
    have hslot (i : Fin 4) : slotStateCode (getSlot s.slots i).state = slot i := by
      unfold slot
      cases (getSlot s.slots i).state <;> rfl
    unfold liveWords slotsWord
    rw [hfield, hdstat, ← hslot, ← hslot, ← hslot, ← hslot]
    rfl

end Sys2Proof.Machine
end

section
/-! Upkeep follows the writes that complete (R11 to R15, R20, R21). -/

namespace Sys2Proof.Machine

/-! ### What the completion of a write does after upkeep -/

/-- The decision of a transfer changes its answer and the report unit alone, and the status pass not at all. -/
theorem takeIn_form (t : Transfer) (s : State) : ∃ i a r b,
    takeIn t s = { s with inHand := i, answer := a, report := r, attn := b } ∧
      r.statusLeft = s.report.statusLeft ∧ r.updateRequested = s.report.updateRequested := by
  unfold takeIn carryDecision reportReadEffect
  repeat' split
  all_goals exact ⟨_, _, _, _, rfl, rfl, rfl⟩

theorem decideAnew_form (s : State) : ∃ i a r b,
    decideAnew s = { s with inHand := i, answer := a, report := r, attn := b } ∧
      r.statusLeft = s.report.statusLeft ∧ r.updateRequested = s.report.updateRequested := by
  unfold decideAnew
  repeat' split
  · exact ⟨_, _, _, _, rfl, rfl, rfl⟩
  · exact ⟨_, _, _, _, rfl, rfl, rfl⟩
  all_goals exact takeIn_form _ _

theorem decideHeld_form (s : State) : ∃ i a r b,
    decideHeld s = { s with inHand := i, answer := a, report := r, attn := b } := by
  unfold decideHeld
  repeat' split
  · exact ⟨_, _, _, _, rfl⟩
  · exact ⟨_, _, _, _, rfl⟩
  · exact ⟨_, _, _, _, rfl⟩
  · obtain ⟨i, a, r, b, h, -, -⟩ := takeIn_form _ s
    exact ⟨i, a, r, b, h⟩

theorem decideAnew_map (s : State) : (decideAnew s).map = s.map := by
  obtain ⟨i, a, r, b, h, -, -⟩ := decideAnew_form s
  rw [h]

theorem decideHeld_map (s : State) : (decideHeld s).map = s.map := by
  obtain ⟨i, a, r, b, h⟩ := decideHeld_form s
  rw [h]

theorem takeOwedEmpty_map (s : State) : (takeOwedEmpty s).map = s.map := by
  unfold takeOwedEmpty
  split
  · exact decideAnew_map _
  · rfl

theorem workPart_takeOwedEmpty (s : State) : workPart (takeOwedEmpty s) = workPart s := by
  unfold takeOwedEmpty; split <;> simp

theorem composerClaim_of_work {s t : State} (h : workPart t = workPart s) : t.composerClaim = s.composerClaim :=
  congrArg (fun y => y.composerClaim) h

/-- The apply-word watch acts on a write to the apply word alone (R66). -/
theorem watchApply_other {a : WordAddr} {s : State} (h : a ≠ setupAddr s.setup.strap 31) (l : Lanes) (v : Word) :
    watchApply a l v s = s := by simp [watchApply, h]

/-- The pending FORMAT LIMIT goes on with the composer's work. -/
theorem carryOn_limitPending (n : Nat) (s : State) :
    (carryOn n s).report.pending.getLsbD 6 = s.report.pending.getLsbD 6 := by
  induction n generalizing s with
  | zero => rfl
  | succ n ih =>
    unfold carryOn
    split
    · rfl
    · exact (ih _).trans (limitPending_of_work (by simp))
    · split
      next op _ _ _ _ u _ => cases op <;> rfl
      next => rfl

/-! ### The map after upkeep -/

/-- Every write but the one that makes a 257th mark is judged (R13). -/
theorem judgeWrite_some {p : Nat} {w : Word} {m : FieldMap}
    (h : isMark w = false ∨ m.table.length < 256 ∨ entryAt m.table p ≠ none) : ∃ m', judgeWrite p w m = some m' := by
  refine Option.ne_none_iff_exists'.mp fun hn => ?_
  obtain ⟨he, hw, hl⟩ := (judgeWrite_none p w m).mp hn
  rcases h with h | h | h
  · rw [h] at hw; cases hw
  · simp only [Config.tableSize] at hl; omega
  · exact h he

theorem table_ne_nil {table : List Entry} {p : Nat} {e : Entry} (h : entryAt table p = some e) : table ≠ [] := by
  rintro rfl
  cases h

/-- A first mark clears the unformatted-modified flag (R7). -/
theorem judgeWrite_modified {p : Nat} {w : Word} {m m' : FieldMap} (h : judgeWrite p w m = some m') :
    m'.modified = (m.modified && !(m.table.isEmpty && isMark w)) := by
  unfold judgeWrite at h
  split at h
  next _ _ hw => cases h; simp [hw]
  next _ _ hw =>
    split at h
    · cases h
    · cases h; simp [hw]
  next e he _ => cases h; simp [table_ne_nil he]
  next e he _ => cases h; simp [table_ne_nil he]

/-- The write of v at p has been followed from map m to map m': R12 to R15 at a place where upkeep judges. -/
structure FollowedTo (p : Nat) (v : Word) (m m' : FieldMap) : Prop where
  state : m'.state = m.state
  scanPoint : m'.scanPoint = m.scanPoint
  entries : ∀ q, entryAt m'.table q = if q = p then (if isMark v then some ⟨p, v⟩ else none) else entryAt m.table q
  modified : m'.modified = (m.modified && !(m.table.isEmpty && isMark v))

theorem followedTo_judged {p : Nat} {v : Word} {m m' : FieldMap} (h : judgeWrite p v m = some m') : FollowedTo p v m m' where
  state := (judgeWrite_entryAt p v m m' h p).1
  scanPoint := (judgeWrite_entryAt p v m m' h p).2.1
  entries q := (judgeWrite_entryAt p v m m' h q).2.2
  modified := judgeWrite_modified h

theorem upkeep_current {p : Nat} {v : Word} {s : State} (hc : s.map.state = .current)
    (h : isMark v = false ∨ s.map.table.length < 256 ∨ entryAt s.map.table p ≠ none) :
    FollowedTo p v s.map (upkeep p v s).map := by
  obtain ⟨m, hm⟩ := judgeWrite_some h
  have hu : upkeep p v s = followWrite p v m s := by simp [upkeep, hc, hm]
  obtain ⟨i, hf⟩ := followWrite_hand p v m s
  rw [hu, hf]
  exact followedTo_judged hm

/-- A 257th mark empties the table, enters LIMIT and offers FORMAT LIMIT (R13). -/
theorem upkeep_overflow {p : Nat} {v : Word} {s : State} (hc : s.map.state = .current)
    (hw : isMark v = true) (hl : 256 ≤ s.map.table.length) (he : entryAt s.map.table p = none) :
    (upkeep p v s).map.state = .limit ∧ (upkeep p v s).map.table = [] ∧
      (upkeep p v s).report.pending.getLsbD 6 = true := by
  have hj := (judgeWrite_none p v s.map).mpr ⟨he, hw, hl⟩
  have hu : upkeep p v s = enterLimit s := by simp [upkeep, hc, hj]
  rw [hu]
  refine ⟨rfl, rfl, ?_⟩
  show (s.report.pending ||| 0x40#8).getLsbD 6 = true
  rw [BitVec.getLsbD_or]; exact Bool.or_true _

/-- Below the scan point a rebuild's map is followed as in CURRENT (R20). -/
theorem upkeep_below {p : Nat} {v : Word} {s : State} (hr : s.map.state = .rebuilding) (hp : p < s.map.scanPoint)
    (h : isMark v = false ∨ s.map.table.length < 256 ∨ entryAt s.map.table p ≠ none) :
    FollowedTo p v s.map (upkeep p v s).map ∧ (upkeep p v s).composerClaim = s.composerClaim := by
  obtain ⟨m, hm⟩ := judgeWrite_some h
  have hu : upkeep p v s = { s with map := m } := by simp [upkeep, hr, hp, hm]
  rw [hu]
  exact ⟨followedTo_judged hm, rfl⟩

theorem upkeep_above {p : Nat} {v : Word} {s : State} (hr : s.map.state = .rebuilding) (hp : s.map.scanPoint ≤ p) :
    upkeep p v s = s := by simp [upkeep, hr, hp]

theorem upkeep_strap (p : Nat) (v : Word) (s : State) : (upkeep p v s).setup.strap = s.setup.strap := by
  have strap {t s : State} (h : mapPart t = mapPart s) : t.setup.strap = s.setup.strap :=
    congrArg (fun x => x.setup.strap) h
  rcases upkeep_cases p v s with ⟨-, -, e⟩ | ⟨m, -, -, e⟩ | ⟨c, -, -, e⟩
  all_goals exact (strap e).trans rfl

/-- The end of a rebuild leaves the map and the pending FORMAT LIMIT as they are. -/
theorem rebuildEnded_map (s : State) : (rebuildEnded s).map = s.map := by
  unfold rebuildEnded
  rw [decideHeld_map]
  split
  next d op _ =>
    show (completeDirective .done s).map = s.map
    unfold completeDirective
    repeat' split
    all_goals rfl
  all_goals rfl

theorem workPart_rebuildEnded (s : State) : workPart (rebuildEnded s) = workPart s := by
  unfold rebuildEnded
  rw [workPart_decideHeld]
  split <;> simp

/-- What a rebuild that ends in LIMIT leaves of the map and the scan's claim (R21). -/
theorem rebuildLimit_effect (s : State) :
    (rebuildLimit s).map = { state := .limit, table := [], scanPoint := s.map.scanPoint, modified := false } ∧
      (rebuildLimit s).composerClaim = none ∧ (rebuildLimit s).report.pending.getLsbD 6 = true := by
  have hw := workPart_rebuildEnded (enterLimit { s with map.modified := false, composerClaim := none })
  refine ⟨rebuildEnded_map _, composerClaim_of_work hw, (limitPending_of_work hw).trans ?_⟩
  show (s.report.pending ||| 0x40#8).getLsbD 6 = true
  rw [BitVec.getLsbD_or]; exact Bool.or_true _

theorem upkeep_below_overflow {p : Nat} {v : Word} {s : State} (hr : s.map.state = .rebuilding) (hp : p < s.map.scanPoint)
    (hw : isMark v = true) (hl : 256 ≤ s.map.table.length) (he : entryAt s.map.table p = none) :
    upkeep p v s = rebuildLimit s := by
  simp [upkeep, hr, hp, (judgeWrite_none p v s.map).mpr ⟨he, hw, hl⟩]

/-! ### The completion of a write at a form-area cell -/

/-- The write of one cell of the form area, on the port. -/
structure CellWrite (u : SetupBlock) (p : Nat) (v : Word) (t0 : PortTransfer) (s : State) : Prop where
  wf : memoryCanonical s
  valid : setupValid s
  active : s.setup.active = some u
  inForm : p < formSize u
  port : s.port = some t0
  addr : t0.addr = cellAddr u p
  op : t0.op = .write .word v
  whole : t0.orphan = false

/-- Upkeep is handed the word written (R11). -/
theorem CellWrite.learn {u : SetupBlock} {p : Nat} {v : Word} {t0 : PortTransfer} {s s1 : State}
    (h : CellWrite u p v t0 s) (ha : s1.setup.active = s.setup.active) (hm : s1.mem = (portDone t0 s).mem) :
    learnTransfer t0 s1 = upkeep p v s1 := by
  have hr : readWord s1.mem (cellAddr u p) = v := by
    rw [hm]
    show readWord (memAfter s.mem t0) _ = v
    rw [memAfter, h.op, h.addr]
    exact readWord_writeWord _ _ _ h.wf
  simp only [learnTransfer, h.op, learnWrite, ha, h.active, h.addr, formPos_cellAddr _ u (h.valid.1 u h.active) p h.inForm,
    hr]

/-- The processor's write of a cell: upkeep after ready is given, then the posting of EMPTY that waited for it. The cell is
not the apply word. -/
theorem CellWrite.done {u : SetupBlock} {p : Nat} {v : Word} {t0 : PortTransfer} {s : State}
    (h : CellWrite u p v t0 s) {owed : Bool} (ho : t0.owner = .processor none false owed ∨ t0.owner = .mergeWrite owed) :
    carriesProcessor s = true ∧
      transferDone s = takeOwedEmpty (upkeep p v (giveReady owed .written (portDone t0 s))) := by
  refine ⟨carriesProcessor_of h.port (ho.imp (fun h => ⟨_, _, _, h⟩) (fun h => ⟨_, h⟩)), ?_⟩
  have hd : transferDone s = processorDone none false owed t0 s := by
    rcases ho with ho | ho
    · exact transferDone_processor h.port h.whole ho
    · exact transferDone_mergeWrite h.port h.whole ho
  have hg : mapPart (giveReady owed .written (portDone t0 s)) = mapPart (portDone t0 s) := mapPart_giveReady _ _ _
  have ha : (giveReady owed .written (portDone t0 s)).setup.active = s.setup.active := by rw [active_of_calm hg]; rfl
  have hk : (upkeep p v (giveReady owed .written (portDone t0 s))).setup.strap = s.setup.strap :=
    (upkeep_strap _ _ _).trans (congrArg (fun y => y.setup.strap) hg)
  have hw : t0.addr ≠ setupAddr s.setup.strap 31 := fun e => by
    have h1 := formPos_cellAddr _ u (h.valid.1 u h.active) p h.inForm
    rw [← h.addr, e, formPos_setup _ u (h.valid.1 u h.active) 31 (by omega)] at h1
    cases h1
  have hl := h.learn ha (mem_of_calm hg)
  simp only [learnTransfer, h.op] at hl
  rw [hd]
  simp only [processorDone, tellBlocks, h.op, answerOf, handReport]
  rw [hl, watchApply_other (by rw [hk]; exact hw)]

/-- What such a write leaves but for the claims that join. -/
theorem CellWrite.processor {u : SetupBlock} {p : Nat} {v : Word} {t0 : PortTransfer} {s : State}
    (h : CellWrite u p v t0 s) {owed : Bool} (ho : t0.owner = .processor none false owed ∨ t0.owner = .mergeWrite owed) :
    ∃ t, exec .processorTransferCompletion s = .next t ∧
      besidesQueue t = besidesQueue (takeOwedEmpty (upkeep p v (giveReady owed .written (portDone t0 s)))) := by
  obtain ⟨hc, hd⟩ := h.done ho
  exact ⟨_, event_true _ _ s hc, by rw [besidesQueue_settle, hd]⟩

/-- What the processor's write of a cell leaves of the map, the scan's claim and the pending FORMAT LIMIT is upkeep's. -/
theorem CellWrite.processor_map {u : SetupBlock} {p : Nat} {v : Word} {t0 : PortTransfer} {s : State}
    (h : CellWrite u p v t0 s) {owed : Bool} (ho : t0.owner = .processor none false owed ∨ t0.owner = .mergeWrite owed) :
    ∃ y t, y.map = s.map ∧ y.composerClaim = s.composerClaim ∧ exec .processorTransferCompletion s = .next t ∧
      t.map = (upkeep p v y).map ∧ t.composerClaim = (upkeep p v y).composerClaim ∧
      t.report.pending.getLsbD 6 = (upkeep p v y).report.pending.getLsbD 6 := by
  obtain ⟨t, ht, hb⟩ := h.processor ho
  have hw := workPart_takeOwedEmpty (upkeep p v (giveReady owed .written (portDone t0 s)))
  have hm : (giveReady owed .written (portDone t0 s)).map = s.map := by
    unfold giveReady leaveHand
    repeat' split
    all_goals rfl
  have hc : (giveReady owed .written (portDone t0 s)).composerClaim = s.composerClaim :=
    congrArg (fun y => y.composerClaim) (mapPart_giveReady owed .written (portDone t0 s))
  refine ⟨_, t, hm, hc, ht, ?_, ?_, ?_⟩
  · exact (congrArg (fun y => y.map) hb).trans (takeOwedEmpty_map _)
  · exact (congrArg (fun y => y.composerClaim) hb).trans (composerClaim_of_work hw)
  · exact (congrArg (fun y => y.report.pending.getLsbD 6) hb).trans (limitPending_of_work hw)

/-- What the composer's write of a cell leaves of the map's table and the pending FORMAT LIMIT is upkeep's. -/
theorem CellWrite.composer_map {u : SetupBlock} {p : Nat} {v : Word} {t0 : PortTransfer} {s : State}
    (h : CellWrite u p v t0 s) (ho : t0.owner = .composer) :
    ∃ y t, y.map = s.map ∧ exec .composerTransferCompletion s = .next t ∧
      t.map.state = (upkeep p v y).map.state ∧ t.map.table = (upkeep p v y).map.table ∧
      t.report.pending.getLsbD 6 = (upkeep p v y).report.pending.getLsbD 6 := by
  have hc : carriesComposer s = true := by simp [carriesComposer, h.port, ho]
  have hl := h.learn (s1 := portDone t0 s) rfl rfl
  have on (a b : State) (hw : workPart b = workPart a) :
      (resume b).map.state = a.map.state ∧ (resume b).map.table = a.map.table ∧
        (resume b).report.pending.getLsbD 6 = a.report.pending.getLsbD 6 := by
    have hm := mapPart_of_work hw
    rw [resume_mapState, resume_table]
    exact ⟨mapState_of_calm hm, congrArg (fun y => y.map.table) hm,
      (carryOn_limitPending 16 b).trans (limitPending_of_work hw)⟩
  have hd (op : Op) (rest : List Op) (w : Word) (y : State) : workPart (opDone op rest w y) = workPart y := by
    cases op with
    | eraseCell p => unfold opDone; dsimp only; split <;> rfl
    | _ => rfl
  have hn (y : State) : workPart (countIfWhole y) = workPart y := by
    unfold countIfWhole; split <;> simp
  refine ⟨portDone t0 s, _, rfl, event_true _ _ s hc, ?_⟩
  rw [settle_map, settle_causes, ← hl]
  simp only [composerDone, h.port, h.whole, Bool.false_eq_true, if_false]
  split
  · exact ⟨rfl, rfl, rfl⟩
  · unfold carryComposer
    split
    · exact on _ _ (by rw [workPart_abortList, hn, hd])
    · exact on _ _ (hd _ _ _ _)

/-! ### A waiting read after a replacement (R15) -/

theorem mem_fieldsFrom {n first i : Nat} {table : List Entry} {f : Field} (h : f ∈ fieldsFrom n first i table) :
    ∃ e ∈ table, f.mark = some e.pos ∧ f.word = e.word := by
  induction table generalizing i with
  | nil => cases h
  | cons e r ih =>
    cases r with
    | nil =>
      rw [fieldsFrom, List.mem_singleton] at h
      exact ⟨e, by simp, by rw [h]; rfl, by rw [h]; rfl⟩
    | cons e' r =>
      rw [fieldsFrom, List.mem_cons] at h
      rcases h with rfl | h
      · exact ⟨e, by simp, rfl, rfl⟩
      · obtain ⟨x, hx, hf⟩ := ih h
        exact ⟨x, List.mem_cons_of_mem _ hx, hf⟩

theorem fieldAt_mem {fs : List Field} {x : Nat} {f : Field} (h : fieldAt fs x = some f) : f ∈ fs := by
  unfold fieldAt at h
  split at h
  next g hg => cases h; exact (List.mem_filter.mp (List.mem_of_getLast? hg)).1
  next => exact List.mem_of_getLast? h

/-- A field with a mark that a lookup gives has the word of an entry there. -/
theorem lookup_word {s : State} {q p : Nat} {f : Field} (h : s.lookup q = some f) (hm : f.mark = some p) :
    ∃ e ∈ s.map.table, e.pos = p ∧ f.word = e.word := by
  have hf : f ∈ s.liveFields := by
    unfold State.lookup at h
    split at h
    · exact fieldAt_mem h
    all_goals cases h
  unfold State.liveFields walkFields at hf
  split at hf
  next => rw [List.mem_singleton.mp hf] at hm; cases hm
  next e r ht =>
    obtain ⟨x, hx, hxm, hw⟩ := mem_fieldsFrom hf
    exact ⟨x, hx, by rw [hm] at hxm; exact (Option.some.inj hxm).symm, hw⟩

/-- A lookup reads the map and the active setup. -/
theorem lookup_congr {s t : State} (hm : t.map = s.map) (ha : t.setup.active = s.setup.active) (q : Nat) :
    t.lookup q = s.lookup q := by
  unfold State.lookup State.liveFields State.formN
  rw [hm, ha]

/-- A replacement leaves no other word at the mark. -/
theorem judgeWrite_replaces {p : Nat} {v : Word} {m m' : FieldMap} (h : judgeWrite p v m = some m') (hv : isMark v = true)
    (he : entryAt m.table p ≠ none) {e : Entry} (hmem : e ∈ m'.table) (hp : e.pos = p) : e.word = v := by
  obtain ⟨x, hx⟩ := Option.ne_none_iff_exists'.mp he
  simp only [judgeWrite, hx, hv, Option.some.injEq] at h
  subst h
  obtain ⟨y, -, rfl⟩ := List.mem_map.mp hmem
  by_cases hy : y.pos = p
  · simp [hy]
  · rw [if_neg hy] at hp; exact absurd hp hy

/-- A read that hidden masking decides in CURRENT (R51, R52, R60). -/
structure MaskedBy (u : SetupBlock) (tr : Transfer) (w q : Nat) (s : State) : Prop where
  awake : s.coldAsserted = false
  active : s.setup.active = some u
  current : s.map.state = .current
  read : tr.access = .read
  nd : tr.cls = .nd
  masking : maskingOn u = true
  window : decidingWindow u tr = some w
  screen : windowKind u w = .screen
  free : inHeldRange u s tr.addr = false
  cell : formPos u tr.addr = some q

theorem MaskedBy.decision {u : SetupBlock} {tr : Transfer} {w q : Nat} {s : State} (h : MaskedBy u tr w q s) {f : Field}
    (hf : s.lookup q = some f) :
    decideTransfer s tr =
      if isHidden f.word = true ∧ isDataOf (formSize u) f q = true then .masked else .route (.pass none) := by
  have hw : isWrite tr = false := by simp [isWrite, h.read]
  have hn : s.formN = formSize u := by simp [State.formN, h.active]
  simp only [decideTransfer, h.awake, h.active, h.free, inGatherHold, hw, windowAction, h.window, h.screen, h.masking, h.nd,
    maskedRead, h.cell, h.current, hf, hn]
  simp

/-- The waiting read after the mark word at p has been replaced (R15). -/
theorem MaskedBy.replaced {u : SetupBlock} {tr : Transfer} {w q p : Nat} {r : Route} {s : State} {f : Field}
    (h : MaskedBy u tr w q s) (hi : s.inHand = some ⟨tr, .waiting r⟩) (hf : s.lookup q = some f) :
    (f.mark = some p →
      (maskWaiting p s).inHand =
        some ⟨tr, .waiting
          (if isHidden f.word = true ∧ isDataOf (formSize u) f q = true then .maskedRead else .pass none)⟩) ∧
    (f.mark ≠ some p → (maskWaiting p s).inHand = s.inHand) := by
  have hw : isWrite tr = false := by simp [isWrite, h.read]
  have hfield : inFieldOf p s tr.addr = (f.mark == some p) := by simp [inFieldOf, h.active, h.cell, hf]
  refine ⟨fun hm => ?_, fun hm => ?_⟩
  · have hin : inFieldOf p s tr.addr = true := by simp [hfield, hm]
    have hd := h.decision hf
    split at hd
    next hc => rw [maskWaiting_masked hi hw hin hd, if_pos hc]
    next hc => rw [maskWaiting_route hi hw hin hd, if_neg hc]
  · rw [maskWaiting_other hi (by simp [hfield, hm])]

/-! ### The statement -/

/-- The state in which a waiting read is decided again: the write done, ready given, the map followed. -/
def replacedAt (t0 : PortTransfer) (a : Option Answer) (m : FieldMap) (s : State) : State :=
  { portDone t0 s with answer := a, map := m }

theorem upkeep_replaced {p : Nat} {v : Word} {m : FieldMap} {s : State} (hc : s.map.state = .current)
    (hj : judgeWrite p v s.map = some m) (hv : isMark v = true) (he : entryAt s.map.table p ≠ none) :
    upkeep p v s = maskWaiting p { s with map := m } := by
  have hr : ((entryAt s.map.table p).isSome && isMark v) = true := by
    rw [hv, Bool.and_true]; exact Option.isSome_iff_ne_none.mpr he
  simp only [upkeep, hc, hj, followWrite, hr, if_true]

/-- The waiting read at the completion of the processor's write of a mark over a mark (R15). -/
theorem CellWrite.waiting_read {u : SetupBlock} {p : Nat} {v : Word} {t0 : PortTransfer} {s : State}
    (h : CellWrite u p v t0 s) {owed : Bool} (ho : t0.owner = .processor none false owed ∨ t0.owner = .mergeWrite owed)
    {tr : Transfer} {r : Route} {w q : Nat} (hm : MaskedBy u tr w q s) (hpost : s.posting ≠ some .empty)
    (hv : isMark v = true) (he : entryAt s.map.table p ≠ none) (hi : s.inHand = some ⟨tr, .waiting r⟩) :
    ∃ t, exec .processorTransferCompletion s = .next t ∧
      ∀ f, t.lookup q = some f →
        (f.mark = some p →
          t.inHand =
            some ⟨tr, .waiting
              (if isHidden v = true ∧ isDataOf (formSize u) f q = true then .maskedRead else .pass none)⟩) ∧
        (f.mark ≠ some p → t.inHand = s.inHand) := by
  obtain ⟨t, ht, hb⟩ := h.processor ho
  obtain ⟨m, hj⟩ := judgeWrite_some (w := v) (.inr (.inr he))
  have hg : ∃ a, giveReady owed .written (portDone t0 s) = { portDone t0 s with answer := a } := by
    have hl : leaveHand (portDone t0 s) = portDone t0 s := by
      unfold leaveHand
      rw [show (portDone t0 s).inHand = some ⟨tr, .waiting r⟩ from hi]
    unfold giveReady
    rw [hl]
    split <;> exact ⟨_, rfl⟩
  obtain ⟨a, hg⟩ := hg
  have hu := upkeep_replaced (s := { portDone t0 s with answer := a }) hm.current hj hv he
  obtain ⟨i, hz⟩ := maskWaiting_hand p (replacedAt t0 a m s)
  change upkeep p v _ = maskWaiting p (replacedAt t0 a m s) at hu
  rw [hg, hu, takeOwedEmpty_none (by rw [hz]; exact hpost)] at hb
  have hmz : MaskedBy u tr w q (replacedAt t0 a m s) :=
    { hm with current := (judgeWrite_entryAt p v s.map m hj p).1.trans hm.current }
  refine ⟨t, ht, fun f hf => ?_⟩
  have hmap : t.map = m := (congrArg (fun y => y.map) hb).trans (by rw [hz]; rfl)
  have hact : t.setup.active = s.setup.active := (congrArg (fun y => y.setup.active) hb).trans (by rw [hz]; rfl)
  have hhand : t.inHand = (maskWaiting p (replacedAt t0 a m s)).inHand := congrArg (fun y => y.inHand) hb
  rw [lookup_congr (s := replacedAt t0 a m s) hmap hact] at hf
  have hres := hmz.replaced (p := p) (r := r) hi hf
  refine ⟨fun hfp => ?_, fun hfp => hhand.trans (hres.2 hfp)⟩
  obtain ⟨e, hmem, hep, hew⟩ := lookup_word hf hfp
  rw [hhand, hres.1 hfp, hew, judgeWrite_replaces hj hv he hmem hep]

/-- Settles O12. Every write is traced to one call of upkeep at the cell written; upkeep's branches are the statement's. -/
theorem upkeepFollowsWrites : Obligations.UpkeepFollowsWrites := by
  refine ⟨fun s u p v c owed hw hv hu hp hcur hcase => ?_, fun s u p v owner owed hw hv hu hp ho hport => ?_⟩
  · rcases hcase with ⟨rfl, hport⟩ | ⟨rfl, hport⟩ | ⟨rfl, hport⟩
    case inr.inr =>
      have hcw : CellWrite u p v _ s := ⟨hw, hv, hu, hp, hport, rfl, rfl, rfl⟩
      obtain ⟨y, t, hy, ht, hst, htb, hpe⟩ := hcw.composer_map rfl
      rw [← hy] at hcur
      refine ⟨t, ht, fun hj => ?_, fun hm hl he => ?_⟩
      · have hf := upkeep_current (v := v) hcur (by rw [hy]; exact hj)
        rw [hst, htb, ← hy]
        exact ⟨hf.state.trans hcur, hf.entries, fun h => nomatch h⟩
      · obtain ⟨h1, h2, h3⟩ := upkeep_overflow hcur hm (by rw [hy]; exact hl) (by rw [hy]; exact he)
        exact ⟨hst.trans h1, htb.trans h2, hpe.trans h3⟩
    all_goals
      have hcw : CellWrite u p v _ s := ⟨hw, hv, hu, hp, hport, rfl, rfl, rfl⟩
      obtain ⟨y, t, hy, -, ht, hmap, -, hpe⟩ := hcw.processor_map (owed := owed) (by simp)
      rw [← hy] at hcur
      refine ⟨t, ht, fun hj => ?_, fun hm hl he => ?_⟩
      · have hf := upkeep_current (v := v) hcur (by rw [hy]; exact hj)
        rw [hmap, ← hy]
        exact ⟨hf.state.trans hcur, hf.entries, fun _ => hf.modified⟩
      · obtain ⟨h1, h2, h3⟩ := upkeep_overflow hcur hm (by rw [hy]; exact hl) (by rw [hy]; exact he)
        rw [hmap]
        exact ⟨h1, h2, hpe.trans h3⟩
  · have hcw : CellWrite u p v { owner := owner, addr := cellAddr u p, op := .write .word v, orphan := false } s :=
      ⟨hw, hv, hu, hp, hport, rfl, rfl, rfl⟩
    refine ⟨fun hreb => ?_, fun tr r w q hcur hpost hcold hm he hi hread hnd hmask hwin hscreen hfree hcell => ?_⟩
    · obtain ⟨y, t, hy, hyc, ht, hmap, hclaim, hpe⟩ := hcw.processor_map ho
      refine ⟨t, ht, ?_⟩
      rw [hmap, hclaim, hpe, ← hy, ← hyc]
      rw [← hy] at hreb
      refine ⟨fun hle => ?_, fun hlt => ⟨fun hj => ?_, fun hm hl he => ?_⟩⟩
      · rw [upkeep_above hreb hle]; exact ⟨rfl, rfl⟩
      · obtain ⟨hf, hc⟩ := upkeep_below (v := v) hreb hlt hj
        exact ⟨hf.state.trans hreb, hf.scanPoint, hf.modified, hf.entries, hc⟩
      · rw [upkeep_below_overflow hreb hlt hm hl he]; exact rebuildLimit_effect y
    · exact hcw.waiting_read ho ⟨hcold, hu, hcur, hread, hnd, hmask, hwin, hscreen, hfree, hcell⟩ hpost hm he hi

end Sys2Proof.Machine
end

section
/-! Warm reset: what it clears, what it keeps, and the abort it begins (R72, R122, R163, R190, R201). -/

namespace Sys2Proof.Machine

/-- The abort of an open list changes the list's phase, the work left and the composer's claim; it begins only when it is
due and no transfer of the composer is under way (R163, R164). -/
theorem abortNow_form (s : State) : ∃ ph todo c,
    abortNow s = { s with composer.listPhase := ph, composer.todo := todo, composerClaim := c } ∧
      (abortDue s = false ∨ transferUnderWay s = true →
        ph = s.composer.listPhase ∧ todo = s.composer.todo ∧ c = s.composerClaim) := by
  unfold abortNow
  split
  next h =>
    simp only [Bool.and_eq_true, Bool.not_eq_true'] at h
    have hno : ¬(abortDue s = false ∨ transferUnderWay s = true) := by simp [h]
    cases hu : s.setup.active with
    | some u =>
      have h1 : resume (abortList s) = beginOp u (.list 3 (BitVec.ofNat 16 s.composer.count)) (abortList s) :=
        carryOn_op (s := abortList s) 15 rfl (fun _ h => nomatch h) hu
      exact ⟨.aborting, (abortList s).composer.todo, (resume (abortList s)).composerClaim, by rw [h1]; rfl,
        fun h => absurd h hno⟩
    | none =>
      refine ⟨.aborting, (abortList s).composer.todo, s.composerClaim, ?_, fun h => absurd h hno⟩
      show carryOn 16 (abortList s) = _
      have ha : (abortList s).setup.active = none := hu
      unfold carryOn
      simp only [ha]
      rfl
  next => exact ⟨_, _, _, rfl, fun _ => ⟨rfl, rfl, rfl⟩⟩

/-- No status pass begins while one runs (R183). -/
theorem beginPass_running {s : State} (h : s.report.statusLeft ≠ []) : beginPass s = s := by
  unfold beginPass
  split
  · rfl
  · rw [if_neg]; simp [h]

/-- A status pass that runs goes on at the end of an event (R183). -/
theorem settle_keeps_pass (s0 : State) {s1 : State} (hj : claimsJoined s1) (h : s1.report.statusLeft ≠ []) :
    (settle s0 s1).report.statusLeft = s1.report.statusLeft ∧ (settle s0 s1).reportClaim = s1.reportClaim := by
  unfold settle noteChange
  rw [joinClaims_id s1 hj]
  split
  · rw [beginPass_running h]; exact ⟨rfl, rfl⟩
  · rw [beginPass_running (s := { s1 with report.updateRequested := true }) h]; exact ⟨rfl, rfl⟩

/-- The work is a send key, GMOD or GUNP (R163). -/
theorem sendOrGather_iff (w : Work) : sendOrGather w = true ↔
    (∃ code, w = .token (.key code) ∧ isSendCode code = true) ∨
      ∃ d op, w = .directive d op ∧ (d = .gmod ∨ d = .gunp) := by
  cases w with
  | token t => cases t <;> simp [sendOrGather]
  | directive d op => simp [sendOrGather]
  | none => simp [sendOrGather]
  | apply => simp [sendOrGather]

/-- No cause is pending and no pulse runs, so ATTN is inactive (R188). -/
theorem warmValues_attn (s : State) : (warmValues s).attn = false := by
  unfold warmValues driveAttn attnLevel
  dsimp only
  cases s.setup.active with
  | none => rfl
  | some u => simp

/-- No abort is due in a list that is not walked or closed; none begins with a transfer of the composer under way. -/
theorem warmValues_no_abort {s : State}
    (h : (s.composer.listPhase ≠ .walking ∧ s.composer.listPhase ≠ .closing) ∨
      (∃ x, s.port = some x ∧ x.owner = .composer) ∨ s.composerClaim ≠ none) :
    abortDue (warmValues s) = false ∨ transferUnderWay (warmValues s) = true := by
  rcases h with ⟨h1, h2⟩ | ⟨x, hx, ho⟩ | h
  · left
    have e : (warmValues s).composer.listPhase = s.composer.listPhase := rfl
    simp [abortDue, e, h1, h2]
  · right
    have e : (warmValues s).port = s.port.map (fun t => { t with owner := ownerAtWarm t.owner }) := rfl
    simp [transferUnderWay, carriesComposer, e, hx, ho, ownerAtWarm]
  · right
    have e : (warmValues s).composerClaim = s.composerClaim := rfl
    simp [transferUnderWay, e, Option.isSome_iff_ne_none.mpr h]

/-- Settles O4: the state warm reset leaves is `warmValues`, but for what an abort changes. -/
theorem warmResetKeepsAndClears : Obligations.WarmResetKeepsAndClears := by
  intro s hj
  obtain ⟨ph, todo, c, hx, hk⟩ := abortNow_form (warmValues s)
  have hjx : claimsJoined (abortNow (warmValues s)) := by rw [hx]; exact hj
  obtain ⟨t, ht, hb⟩ := event_effect true (fun s => abortNow (warmValues s)) s rfl hjx
  have f {α : Type} (g : State → α) : g (besidesStatus t) = g (besidesStatus (abortNow (warmValues s))) := congrArg g hb
  rw [hx] at f
  have hport : ∀ y : Option PortTransfer, y.map (fun t => { t with owner := ownerAtWarm t.owner }) = y.map (fun x =>
      { x with owner := match x.owner with
        | .processor i m _ => .processor i m false
        | .mergeRead l d _ => .mergeRead l d false
        | .mergeWrite _ => .mergeWrite false
        | o => o }) := by
    intro y
    refine congrFun (congrArg _ (funext fun x => ?_)) y
    cases x.owner <;> rfl
  have hmark : t.composer.abortMark = (s.composer.abortMark || sendOrGather s.composer.work) :=
    f (fun y => y.composer.abortMark)
  refine ⟨t, ht, f (·.inHand), f (·.answer), f (·.fairness), f (·.lock), (f (·.port)).trans (hport _),
    f (·.report.pending), f (·.report.seen), f (·.report.snapshotValid), f (·.report.intake), f (·.report.operand),
    f (·.report.pulse), (f (·.attn)).trans (warmValues_attn s), f (·.report.counters), f (·.coldAsserted),
    f (·.mem), f (·.map),
    f (·.heldRange), f (·.posting), f (·.queue), f (·.claimOrder), f (·.holding), f (·.keyboard), f (·.scanner),
    f (·.lineFormat), f (·.pendingFormat), f (·.slots), f (·.collecting), f (·.terminator), f (·.record), f (·.timer),
    f (·.tone), f (·.setup), f (·.setupClaim), f (·.composer.cursor), f (·.composer.insertMode), f (·.composer.engine),
    f (·.composer.work), ?_, fun h => ?_, fun c' hc' => ?_, fun hl => ?_⟩
  · rw [hmark, Bool.or_eq_true, sendOrGather_iff]
  · obtain ⟨rfl, rfl, rfl⟩ := hk (warmValues_no_abort h)
    exact ⟨by rw [hmark]; exact f (·.composer), f (·.composerClaim)⟩
  · obtain ⟨-, -, rfl⟩ := hk (warmValues_no_abort (.inr (.inr (by simp [hc']))))
    exact (f (·.composerClaim)).trans hc'
  · cases ht
    have hxl : (abortNow (warmValues s)).report.statusLeft = s.report.statusLeft := by rw [hx]; rfl
    obtain ⟨h1, h2⟩ := settle_keeps_pass s hjx (by rw [hxl]; exact hl)
    exact ⟨h1.trans hxl, h2.trans (by rw [hx]; rfl)⟩

end Sys2Proof.Machine
end

section
/-! The last setup read: the block is judged, and an accepted one becomes the active setup in that event (R196, R198). -/

namespace Sys2Proof.Machine

/-! ### The transfer in hand, and the pass that begins at the end of the event -/

theorem decideAnew_alone {s : State} (h : s.inHand = none) : decideAnew s = s := by simp [decideAnew, h]

theorem decideAnew_granted {s : State} {t : Transfer} (h : s.inHand = some ⟨t, .granted⟩) : decideAnew s = s := by
  simp [decideAnew, h]

/-- A decision does not read the setup unit's result or claim. -/
theorem decideAnew_setupResult (s : State) (r : Option Word) (c : Option PortTransfer) :
    decideAnew { s with setup.result := r, setupClaim := c } = { decideAnew s with setup.result := r, setupClaim := c } := by
  have ht (t : Transfer) :
      takeIn t { s with setup.result := r, setupClaim := c } = { takeIn t s with setup.result := r, setupClaim := c } := by
    have hd : decideTransfer { s with setup.result := r, setupClaim := c } t = decideTransfer s t := rfl
    unfold takeIn
    rw [hd]
    cases decideTransfer s t with
    | report i =>
      unfold carryDecision reportReadEffect
      dsimp only
      repeat' split
      all_goals rfl
    | _ => rfl
  obtain hi | ⟨⟨t, st⟩, hi⟩ := Option.eq_none_or_eq_some s.inHand
  · rw [decideAnew_alone hi, decideAnew_alone (by exact hi)]
  · by_cases hg : st = .granted
    · subst hg
      rw [decideAnew_granted hi, decideAnew_granted (t := t) (by exact hi)]
    · rw [decideAnew_takeIn hi hg, decideAnew_takeIn (t := t) (st := st) (by exact hi) hg, ht]

/-- A status pass that is requested begins at the end of the event (R183). -/
theorem settle_begins_pass (s0 : State) {s1 : State} {u : SetupBlock} (hj : claimsJoined s1)
    (hu : s1.setup.active = some u) (hl : s1.report.statusLeft = []) (hr : s1.report.updateRequested = true) :
    settle s0 s1 = claimStatus u { s1 with report.updateRequested := false, report.statusLeft := statusImage u s1 } := by
  have hb (y : State) (hu : y.setup.active = some u) (hl : y.report.statusLeft = []) (hr : y.report.updateRequested = true) :
      beginPass y = claimStatus u { y with report.updateRequested := false, report.statusLeft := statusImage u y } := by
    unfold beginPass
    rw [hu]
    simp [hl, hr]
  unfold settle noteChange
  rw [joinClaims_id s1 hj]
  split
  · exact hb s1 hu hl hr
  · exact hb { s1 with report.updateRequested := true } hu hl rfl

/-! ### The switch event, written out -/

theorem claimsJoined_of_queue {s t : State} (h : claimsJoined s) (hc : t.claimOrder = s.claimOrder)
    (hq : t.queue = s.queue) : claimsJoined t := by
  unfold claimsJoined
  rwa [hc, hq]

/-- A block that has passed validation has a scanner format (R196). -/
theorem valid_format {k : BitVec 4} {u : SetupBlock} (h : validate k u = 0x0001#16) : ∃ g, scannerFormat u = some g := by
  obtain ⟨-, -, -, hs, -⟩ := validate_accepts k u h
  simp only [scannerFails, Bool.or_eq_false_iff] at hs
  exact Option.isSome_iff_exists.mp (by simpa using hs.1)

/-- The state after the switch to u with scanner format g, but for the transfer in hand decided anew: the new values, the
rebuild started, the result claimed. -/
def switchDone (u : SetupBlock) (g : LineFormat) (s : State) : State :=
  driveAttn
    { s with
      setupClaim :=
        some { owner := .setupResult, addr := setupAddr s.setup.strap 30, op := .write .word 0x0001#16, orphan := false }
      setup.active := some u
      setup.state := .active
      setup.result := some 0x0001#16
      map.state := .rebuilding
      map.table := []
      map.scanPoint := 0
      composerClaim := some (scanClaim u 0)
      composer.cursor := keptCursor u s.composer.cursor
      terminator := setupTerminator u
      timer.gapLimit := setupGapLimit u
      timer.holdoffTicks := setupHoldoff u
      lineFormat := if s.scanner.state = .idle then g else s.lineFormat
      pendingFormat := if s.scanner.state = .idle then none else some g
      report.statusLeft := []
      reportClaim := none
      report.updateRequested := true
      report.pulse := false }

theorem judgeSetup_accepts {s : State} (h : validate s.setup.strap s.setup.fetched = 0x0001#16) {g : LineFormat}
    (hg : scannerFormat s.setup.fetched = some g) :
    judgeSetup s = decideAnew (switchDone s.setup.fetched g s) := by
  have hv : { startRebuild (switchValues s.setup.fetched s) with
        setup.result := some 0x0001#16,
        setupClaim :=
          some
            { owner := .setupResult, addr := setupAddr s.setup.strap 30, op := .write .word 0x0001#16, orphan := false } } =
      switchDone s.setup.fetched g s := by
    unfold switchValues switchFormat offerFormat switchDone
    rw [hg]
    cases hs : s.scanner.state <;> rfl
  unfold judgeSetup
  rw [← hv, decideAnew_setupResult, h]
  obtain ⟨i, a, r, b, hd, -, -⟩ := decideAnew_form (startRebuild (switchValues s.setup.fetched s))
  simp only [if_true, switchEvent, hd, claimSetup]
  obtain ⟨f, p, hf⟩ := switchValues_format s.setup.fetched s
  rw [hf]
  rfl

theorem judgeSetup_refuses {s : State} (h : validate s.setup.strap s.setup.fetched ≠ 0x0001#16) :
    judgeSetup s =
      claimSetup .setupResult 30 (.write .word (validate s.setup.strap s.setup.fetched))
        { s with setup.result := some (validate s.setup.strap s.setup.fetched) } := by
  simp only [judgeSetup, if_neg h]

/-- The block with its last word read. -/
def lastWordRead (a : WordAddr) (s : State) : State :=
  { s with port := none, setup.fetched := s.setup.fetched ++ [readWord s.mem a] }

theorem setupReadDone_last {s : State} {a : WordAddr}
    (hp : s.port = some { owner := .setupRead, addr := a, op := .read, orphan := false })
    (hl : s.setup.fetched.length = 19) : setupReadDone s = judgeSetup (lastWordRead a s) := by
  have hlen : ¬(s.setup.fetched ++ [readWord s.mem a]).length < 20 := by simp [hl]
  unfold setupReadDone
  rw [hp]
  exact if_neg hlen

/-- The last read of a setup that is accepted (R195, R198): g is the block's scanner format. -/
structure LastRead (a : WordAddr) (u : SetupBlock) (g : LineFormat) (s : State) : Prop where
  joined : claimsJoined s
  port : s.port = some { owner := .setupRead, addr := a, op := .read, orphan := false }
  length : s.setup.fetched.length = 19
  block : u = s.setup.fetched ++ [readWord s.mem a]
  accepted : validate s.setup.strap u = 0x0001#16
  format : scannerFormat u = some g

section
variable {a : WordAddr} {u : SetupBlock} {g : LineFormat} {s : State} (h : LastRead a u g s)
include h

theorem LastRead.carries : carriesOwner .setupRead s = true := by simp [carriesOwner, h.port]

theorem LastRead.effect : setupReadDone s = decideAnew (switchDone u g (lastWordRead a s)) := by
  have hf : (lastWordRead a s).setup.fetched = u := h.block.symm
  rw [setupReadDone_last h.port h.length, judgeSetup_accepts (g := g) (by rw [hf]; exact h.accepted)
    (by rw [hf]; exact h.format), hf]

theorem LastRead.emptyHand : LastRead a u g { s with inHand := none } :=
  ⟨h.joined, h.port, h.length, h.block, h.accepted, h.format⟩

/-- A transfer in hand, unless granted, is decided anew as if it arrived then (R70). -/
theorem LastRead.arrival {tr : Transfer} {st : Standing} (hi : s.inHand = some ⟨tr, st⟩) (hg : st ≠ .granted) :
    ∃ t t0, exec .setupReadCompletion s = .next t ∧ exec .setupReadCompletion { s with inHand := none } = .next t0 ∧
      arrivedAt tr t0 t := by
  refine event_arrivedAt (f := setupReadDone) (s0 := switchDone u g (lastWordRead a { s with inHand := none })) h.carries
    rfl rfl ?_ rfl ?_ h.joined
  · rw [h.emptyHand.effect, decideAnew_alone rfl]
  · rw [h.effect, decideAnew_takeIn (s := switchDone u g (lastWordRead a s)) hi hg]
    exact (takeIn_hand tr (switchDone u g (lastWordRead a s)) none).symm

/-- The state after the event, but for what the transfer in hand makes of the answer, the report unit and ATTN, and for the
status pass, which begins in it (R183). -/
theorem LastRead.next : ∃ t i b rep at', exec .setupReadCompletion s = .next t ∧
    besidesStatus t = besidesStatus
      { switchDone u g (lastWordRead a s) with inHand := i, answer := b, report := rep, attn := at' } ∧
    (s.inHand = none → besidesStatus t = besidesStatus (switchDone u g (lastWordRead a s))) ∧
    t.report.statusLeft = statusImage u t ∧ t.report.updateRequested = false := by
  obtain ⟨i, b, rep, at', hd, hl, hr⟩ := decideAnew_form (switchDone u g (lastWordRead a s))
  have hj : claimsJoined (setupReadDone s) := by rw [h.effect, hd]; exact h.joined
  have hb := besidesStatus_settle_id s _ hj
  refine ⟨_, i, b, rep, at', event_true _ _ s h.carries, by rw [hb, h.effect, hd], fun hi => ?_, ?_⟩
  · rw [hb, h.effect, decideAnew_alone (by exact hi)]
  · have hs := settle_begins_pass s hj (u := u) (by rw [h.effect, hd]; rfl) (by rw [h.effect, hd]; exact hl)
      (by rw [h.effect, hd]; exact hr)
    rw [hs, claimStatus_eq]
    exact ⟨rfl, rfl⟩

end

/-- Settles O22. -/
theorem lastSetupReadJudgesAndSwitches : Obligations.LastSetupReadJudgesAndSwitches := by
  intro s a hj hp hl u r claim
  have hc : carriesOwner .setupRead s = true := by simp [carriesOwner, hp]
  refine ⟨fun hr => ?_, fun hr => ?_⟩
  · have hf := (setupReadDone_last hp hl).trans (judgeSetup_refuses hr)
    obtain ⟨t, ht, hb⟩ := event_effect _ setupReadDone s hc
      (claimsJoined_of_queue hj (by rw [hf]; rfl) (by rw [hf]; rfl))
    exact ⟨t, ht, by rw [hb, hf]; rfl⟩
  · obtain ⟨g, hg⟩ := valid_format hr
    have h : LastRead a u g s := ⟨hj, hp, hl, rfl, hr, hg⟩
    obtain ⟨t, i, b, rep, at', ht, hb, hbn, himage, hreq⟩ := h.next
    have f {α : Type} (k : State → α) : k (besidesStatus t) = k (besidesStatus
      { switchDone u g (lastWordRead a s) with inHand := i, answer := b, report := rep, attn := at' }) := congrArg k hb
    have hline : t.lineFormat = if s.scanner.state = .idle then g else s.lineFormat := f (·.lineFormat)
    have hpend : t.pendingFormat = if s.scanner.state = .idle then none else some g := f (·.pendingFormat)
    have hclaim : some (⟨.setupResult, setupAddr s.setup.strap 30, .write .word 0x0001#16, false⟩ : PortTransfer) =
        some claim :=
      congrArg (fun x => some (⟨.setupResult, setupAddr s.setup.strap 30, .write .word x, false⟩ : PortTransfer)) hr.symm
    refine ⟨t, ht, f (·.mem), f (·.port), (f (·.setupClaim)).trans hclaim, f (·.setup.active), f (·.setup.state),
      f (·.setup.result), f (·.map.state), f (·.map.table), f (·.map.scanPoint), f (·.map.modified), f (·.composerClaim),
      f (·.composer.cursor), f (·.composer.insertMode), f (·.composer.engine), f (·.terminator), f (·.timer.gapLimit),
      f (·.timer.holdoffTicks),
      f (·.timer.gap), f (·.timer.holdoff), fun hi => ?_, fun hi => ?_, himage, hreq, f (·.queue), f (·.claimOrder),
      f (·.slots), f (·.record), f (·.lock), fun tr st hi hst => ?_, fun hi => ?_⟩
    · rw [hline, hpend, if_pos hi, if_pos hi, hg]; exact ⟨rfl, rfl⟩
    · rw [hline, hpend, if_neg hi, if_neg hi, hg]; exact ⟨rfl, rfl⟩
    · obtain ⟨x, t0, hx, h0, harr⟩ := h.arrival hi hst
      rw [ht] at hx
      cases hx
      exact ⟨t0, h0, harr⟩
    · rw [hbn hi, hline, hpend, ← hclaim]
      have hattn : (switchDone u g (lastWordRead a s)).attn =
          (!pulseMode u && (s.report.pending &&& causeEnables u != 0#8)) := by
        show (if pulseMode u then false else s.report.pending &&& causeEnables u != 0#8) = _
        cases pulseMode u <;> simp
      rw [← hattn]
      rfl

end Sys2Proof.Machine
end

section
/-! A rebuild from its start to its end (R18 to R21, R180). -/

namespace Sys2Proof.Machine

/-! ### Its start by RBLD -/

/-- A directive that the composer can take runs in the event of its taking. -/
theorem directiveRow_runs {d : Directive} {f : State → State} {s : State} (h : directiveReady d s)
    (hj : claimsJoined (f (takeDirective d s))) :
    ∃ t, directiveRow d f s = .next t ∧ besidesStatus t = besidesStatus (f (takeDirective d s)) := by
  obtain ⟨h1, h2, h3, h4⟩ := h
  exact event_effect _ (fun s => f (takeDirective d s)) s (by simp [directiveWaits, h1, h2, h3, h4]) hj

theorem rebuildMap_eq {s : State} {u : SetupBlock} (hu : s.setup.active = some u) :
    rebuildMap s =
      rebuildStarted u { s with composer.engine := .paused, composer.workingTable := some s.map.table } := by
  unfold rebuildMap startRebuild
  dsimp only
  rw [hu]
  rfl

/-! ### Its end -/

/-- The composer leaves PAUSED, RBLD completed (R21, R125, R180). -/
def pauseLeft (s : State) : State :=
  match s.composer.work with
  | .directive _ _ => idleComposer (completeDirective .done s)
  | .apply => idleComposer s
  | .none => s
  | .token _ => s

theorem rebuildEnded_eq (s : State) : rebuildEnded s = decideHeld (pauseLeft s) := rfl

theorem pauseLeft_apply {s : State} (h : s.composer.work = .apply) : pauseLeft s = idleComposer s := by
  simp [pauseLeft, h]

theorem pauseLeft_rbld {s : State} {d : Directive} {op : Word} (h : s.composer.work = .directive d op)
    (hi : s.report.intake.state = .running) :
    pauseLeft s =
      idleComposer
        (offer .directiveDone { s with report.intake.state := .completed, report.intake.completion := .done }) := by
  simp [pauseLeft, h, completeDirective, hi]

/-- It does not read the transfer in hand, and leaves the queue as it was. -/
theorem pauseLeft_hand (s : State) (i : Option InHand) :
    pauseLeft { s with inHand := i } = { pauseLeft s with inHand := i } := by
  unfold pauseLeft completeDirective
  dsimp only
  repeat' split
  all_goals rfl

theorem pauseLeft_keeps (s : State) :
    (pauseLeft s).inHand = s.inHand ∧ (pauseLeft s).queue = s.queue ∧ (pauseLeft s).claimOrder = s.claimOrder := by
  unfold pauseLeft completeDirective
  repeat' split
  all_goals exact ⟨rfl, rfl, rfl⟩

theorem rebuildEnded_alone {s : State} (h : s.inHand = none) : rebuildEnded s = pauseLeft s := by
  rw [rebuildEnded_eq, decideHeld_alone _ ((pauseLeft_keeps s).1.trans h)]

/-- A transfer held through the rebuild is decided anew (R58, R60). -/
theorem rebuildEnded_held {s : State} {tr : Transfer} {why : HoldReason} (h : s.inHand = some ⟨tr, .held why⟩) :
    rebuildEnded s = takeIn tr (pauseLeft { s with inHand := none }) := by
  have hi : (pauseLeft s).inHand = some ⟨tr, .held why⟩ := (pauseLeft_keeps s).1.trans h
  rw [rebuildEnded_eq, pauseLeft_hand s none, takeIn_hand]
  simp [decideHeld, hi]

/-! ### The causes a change of the pending set leaves aside -/

theorem besidesCauses_congr {s t : State} (h : besidesStatus t = besidesStatus s) : besidesCauses t = besidesCauses s := by
  unfold besidesCauses
  rw [h]

/-- An event that ends a rebuild with the causes m offered. -/
def offers (m : Byte) (s t x : State) : Prop :=
  t.report.pending = s.report.pending ||| m ∧ t.report.seen = s.report.seen &&& ~~~m ∧ besidesCauses t = besidesCauses x

/-- FORMAT LIMIT and DIRECTIVE DONE, one after the other. -/
theorem or_limit_done (p : Byte) : p ||| causeBit .formatLimit ||| causeBit .directiveDone = p ||| 0x42#8 := by
  rw [BitVec.or_assoc]; rfl

theorem and_limit_done (p : Byte) : p &&& ~~~causeBit .formatLimit &&& ~~~causeBit .directiveDone = p &&& ~~~0x42#8 := by
  rw [BitVec.and_assoc]; rfl

theorem offers_congr {m : Byte} {s t t' x : State} (h : besidesStatus t' = besidesStatus t) (ho : offers m s t x) :
    offers m s t' x :=
  ⟨(congrArg (fun y => y.report.pending) h).trans ho.1, (congrArg (fun y => y.report.seen) h).trans ho.2.1,
    (besidesCauses_congr h).trans ho.2.2⟩

/-! ### A read of the scan -/

/-- The cell at the scan point taken in, the flag with it (R7, R19). -/
def scanTaken (w : Word) (s : State) : State :=
  { s with
    map.table := if isMark w then s.map.table ++ [⟨s.map.scanPoint, w⟩] else s.map.table
    map.scanPoint := s.map.scanPoint + 1
    map.modified := s.map.modified && !(isMark w && s.map.table.isEmpty) }

theorem scanWord_taken {w : Word} {s : State} (h : isMark w = false ∨ s.map.table.length < 256) :
    scanWord w s = scanAdvanced (scanTaken w s) := by
  unfold scanWord scanTaken
  cases hw : isMark w with
  | false => simp
  | true =>
    have hl : ¬Config.tableSize ≤ s.map.table.length := by
      simp only [Config.tableSize]
      rcases h with h | h
      · rw [h] at hw; cases hw
      · omega
    simp [hl]

theorem scanWord_overflow {w : Word} {s : State} (h : ¬(isMark w = false ∨ s.map.table.length < 256)) :
    scanWord w s = rebuildLimit s := by
  have hw : isMark w = true := by simpa using fun e => h (.inl e)
  have hl : Config.tableSize ≤ s.map.table.length := by
    simp only [Config.tableSize]; by_contra hlt; exact h (.inr (by omega))
  simp [scanWord, hw, hl]

theorem scanAdvanced_on {s : State} {u : SetupBlock} (hu : s.setup.active = some u) (h : s.map.scanPoint < formSize u) :
    scanAdvanced s = { s with composerClaim := some (scanClaim u s.map.scanPoint) } := by
  have hn : ¬s.formN ≤ s.map.scanPoint := by simp [State.formN, hu, h]
  unfold scanAdvanced claimScan
  rw [if_neg hn, hu]

theorem scanAdvanced_end {s : State} {u : SetupBlock} (hu : s.setup.active = some u) (h : formSize u ≤ s.map.scanPoint) :
    scanAdvanced s =
      rebuildEnded { s with map.state := .current, map.modified := s.map.modified && s.map.table.isEmpty } := by
  have hn : s.formN ≤ s.map.scanPoint := by simp [State.formN, hu, h]
  unfold scanAdvanced
  rw [if_pos hn]

/-- The last cell taken in: the map is CURRENT. -/
def scanCurrent (w : Word) (s : State) : State :=
  { s with
    map :=
      { state := .current,
        table := if isMark w then s.map.table ++ [⟨s.map.scanPoint, w⟩] else s.map.table,
        scanPoint := s.map.scanPoint + 1,
        modified :=
          s.map.modified && (if isMark w then s.map.table ++ [⟨s.map.scanPoint, w⟩] else s.map.table).isEmpty } }

theorem scanTaken_current (w : Word) (s : State) :
    { scanTaken w s with
      map.state := .current, map.modified := (scanTaken w s).map.modified && (scanTaken w s).map.table.isEmpty } =
      scanCurrent w s := by
  have hm : (s.map.modified && !(isMark w && s.map.table.isEmpty) &&
      (if isMark w then s.map.table ++ [(⟨s.map.scanPoint, w⟩ : Entry)] else s.map.table).isEmpty) =
      (s.map.modified && (if isMark w then s.map.table ++ [⟨s.map.scanPoint, w⟩] else s.map.table).isEmpty) := by
    have he : (s.map.table ++ [(⟨s.map.scanPoint, w⟩ : Entry)]).isEmpty = false := by simp [List.isEmpty_eq_false_iff]
    cases isMark w <;> simp [he]
  unfold scanCurrent
  rw [← hm]
  rfl

/-- The map in LIMIT, no read of the scan claimed, its flag cleared (R21). -/
def scanLimit (s : State) : State := enterLimit { s with map.modified := false, composerClaim := none }

/-- A read of the scan on the port, in a rebuild under u. -/
structure ScanRead (u : SetupBlock) (a : WordAddr) (s : State) : Prop where
  joined : claimsJoined s
  active : s.setup.active = some u
  rebuilding : s.map.state = .rebuilding
  port : s.port = some { owner := .mapScan, addr := a, op := .read, orphan := false }

/-- The word read. -/
abbrev scanRead (u : SetupBlock) (s : State) : Word := readWord s.mem (cellAddr u s.map.scanPoint)

section
variable {u : SetupBlock} {a : WordAddr} {s : State} (h : ScanRead u a s)
include h

theorem ScanRead.carries : carriesOwner .mapScan s = true := by simp [carriesOwner, h.port]

theorem ScanRead.done : scanReadDone s = scanWord (scanRead u s) { s with port := none } := by
  have hc : scanCell { s with port := none } = scanRead u s := by
    simp only [scanCell, h.active, scanRead]
  unfold scanReadDone
  rw [h.port, ← hc]
  exact if_pos h.rebuilding

theorem ScanRead.on (hf : isMark (scanRead u s) = false ∨ s.map.table.length < 256)
    (hp : s.map.scanPoint + 1 < formSize u) :
    scanReadDone s =
      { scanTaken (scanRead u s) { s with port := none } with
        composerClaim := some (scanClaim u (s.map.scanPoint + 1)) } := by
  rw [h.done, scanWord_taken (by exact hf), scanAdvanced_on (by exact h.active) (by exact hp)]
  rfl

theorem ScanRead.last (hf : isMark (scanRead u s) = false ∨ s.map.table.length < 256)
    (hp : formSize u ≤ s.map.scanPoint + 1) :
    scanReadDone s = rebuildEnded (scanCurrent (scanRead u s) { s with port := none }) := by
  rw [h.done, scanWord_taken (by exact hf), scanAdvanced_end (by exact h.active) (by exact hp), scanTaken_current]

theorem ScanRead.overflow (hf : ¬(isMark (scanRead u s) = false ∨ s.map.table.length < 256)) :
    scanReadDone s = rebuildEnded (scanLimit { s with port := none }) := by
  rw [h.done, scanWord_overflow (by exact hf)]
  rfl

theorem ScanRead.next {x : State} (hx : scanReadDone s = x) (hj : claimsJoined x) :
    ∃ t, exec .scanReadCompletion s = .next t ∧ besidesStatus t = besidesStatus x := by
  subst hx
  exact event_effect _ scanReadDone s h.carries hj

/-- The end of the rebuild with a transfer held through it. -/
theorem ScanRead.release {tr : Transfer} {why : HoldReason} (hi : s.inHand = some ⟨tr, .held why⟩) {z : State}
    (hz : scanReadDone s = rebuildEnded z)
    (hz0 : scanReadDone { s with inHand := none } = rebuildEnded { z with inHand := none })
    (hk : z.inHand = s.inHand) (hj : claimsJoined z) :
    ∃ t t0, exec .scanReadCompletion s = .next t ∧ exec .scanReadCompletion { s with inHand := none } = .next t0 ∧
      arrivedAt tr t0 t := by
  obtain ⟨k1, k2, k3⟩ := pauseLeft_keeps { z with inHand := none }
  exact event_arrivedAt (f := scanReadDone) (s0 := pauseLeft { z with inHand := none }) h.carries rfl rfl
    (hz0.trans (rebuildEnded_alone rfl)) k1 (hz.trans (rebuildEnded_held (hk.trans hi)))
    (claimsJoined_of_queue (s := z) hj k3 k2)

end

/-! ### A 257th mark inserted by the processor -/

/-- The rebuild ended in LIMIT by the processor's write of t0, the composer still at its work (R20, R21). -/
def writeLimit (t0 : PortTransfer) (s : State) : State :=
  enterLimit
    { s with
      mem := memAfter s.mem t0, port := none, inHand := none, answer := some .written, map.modified := false,
      composerClaim := none }

theorem CellWrite.ends_rebuild {u : SetupBlock} {p : Nat} {v : Word} {t0 : PortTransfer} {s : State} {tr : Transfer}
    (h : CellWrite u p v t0 s) (ho : t0.owner = .processor none false true) (hi : s.inHand = some ⟨tr, .granted⟩)
    (hpost : s.posting ≠ some .empty) (hr : s.map.state = .rebuilding) (hp : p < s.map.scanPoint) (hv : isMark v = true)
    (hl : 256 ≤ s.map.table.length) (he : entryAt s.map.table p = none) :
    carriesProcessor s = true ∧ transferDone s = pauseLeft (writeLimit t0 s) := by
  obtain ⟨hc, hd⟩ := h.done (owed := true) (.inl ho)
  have hg : giveReady true .written (portDone t0 s) =
      { s with mem := memAfter s.mem t0, port := none, inHand := none, answer := some .written } :=
    giveReady_granted .written (s := portDone t0 s) hi
  refine ⟨hc, ?_⟩
  rw [hd, hg, upkeep_below_overflow (by exact hr) (by exact hp) hv (by exact hl) (by exact he)]
  have hb : rebuildLimit { s with mem := memAfter s.mem t0, port := none, inHand := none, answer := some .written } =
      pauseLeft (writeLimit t0 s) := rebuildEnded_alone (s := writeLimit t0 s) rfl
  rw [hb, takeOwedEmpty_none]
  have hk : (pauseLeft (writeLimit t0 s)).posting = s.posting := by
    unfold pauseLeft completeDirective
    repeat' split
    all_goals rfl
  rw [hk]
  exact hpost

/-! ### The statement -/

/-- Settles O23. Each end of a rebuild is `pauseLeft` after the map's own change; a held transfer is released after it. -/
theorem rebuildRunsToItsEnd : Obligations.RebuildRunsToItsEnd := by
  refine ⟨fun s u hj hu hr => ?_, fun s u p v tr hj hw hv hu hst hp hps hm hl he hi hpost hport => ?_,
    fun s u a hj hu hst hport => ?_⟩
  · have e : rebuildMap (takeDirective .rbld s) = _ := rebuildMap_eq (by exact hu)
    obtain ⟨t, ht, hb⟩ := directiveRow_runs (f := rebuildMap) hr (by rw [e]; exact hj)
    exact ⟨t, ht, by rw [hb, e]; rfl⟩
  · have hcw : CellWrite u p v _ s := ⟨hw, hv, hu, hp, hport, rfl, rfl, rfl⟩
    obtain ⟨hc, hd⟩ := hcw.ends_rebuild rfl hi hpost hst hps hm hl he
    refine ⟨fun hwork => ?_, fun op hwork hrun => ?_⟩
    · rw [pauseLeft_apply (by exact hwork)] at hd
      obtain ⟨t, ht, hb⟩ := event_effect _ transferDone s hc (by rw [hd]; exact hj)
      rw [hd] at hb
      exact ⟨t, ht, offers_congr hb ⟨rfl, rfl, rfl⟩⟩
    · rw [pauseLeft_rbld (by exact hwork) (by exact hrun)] at hd
      obtain ⟨t, ht, hb⟩ := event_effect _ transferDone s hc (by rw [hd]; exact hj)
      rw [hd] at hb
      exact ⟨t, ht, offers_congr hb ⟨or_limit_done _, and_limit_done _, rfl⟩⟩
  · have h : ScanRead u a s := ⟨hj, hu, hst, hport⟩
    refine ⟨fun hf hlt => ?_, fun hi hwork => ⟨fun hf hle => ?_, fun hf => ?_⟩,
      fun op hi hwork hrun => ⟨fun hf hle => ?_, fun hf => ?_⟩, fun tr hi _ hend => ?_⟩
    · exact h.next (h.on hf hlt) hj
    · exact h.next ((h.last hf hle).trans ((rebuildEnded_alone (by exact hi)).trans (pauseLeft_apply (by exact hwork)))) hj
    · obtain ⟨t, ht, hb⟩ :=
        h.next ((h.overflow hf).trans ((rebuildEnded_alone (by exact hi)).trans (pauseLeft_apply (by exact hwork)))) hj
      exact ⟨t, ht, offers_congr hb ⟨rfl, rfl, rfl⟩⟩
    · obtain ⟨t, ht, hb⟩ := h.next ((h.last hf hle).trans
        ((rebuildEnded_alone (by exact hi)).trans (pauseLeft_rbld (by exact hwork) (by exact hrun)))) hj
      exact ⟨t, ht, offers_congr hb ⟨rfl, rfl, rfl⟩⟩
    · obtain ⟨t, ht, hb⟩ := h.next ((h.overflow hf).trans
        ((rebuildEnded_alone (by exact hi)).trans (pauseLeft_rbld (by exact hwork) (by exact hrun)))) hj
      exact ⟨t, ht, offers_congr hb ⟨or_limit_done _, and_limit_done _, rfl⟩⟩
    · have h0 : ScanRead u a { s with inHand := none } := ⟨hj, hu, hst, hport⟩
      by_cases hf : isMark (scanRead u s) = false ∨ s.map.table.length < 256
      · have hle := hend.resolve_left (fun hn => hn hf)
        exact h.release hi (h.last hf hle) (h0.last hf hle) rfl hj
      · exact h.release hi (h.overflow hf) (h0.overflow hf) rfl hj

end Sys2Proof.Machine
end

section
/-! A transfer of the composer completes and the next is claimed (R2, R130). -/

namespace Sys2Proof.Machine

/-! ### A read -/

/-- The completion of a composer transfer as an event. -/
theorem composer_next {s x : State} {t0 : PortTransfer} (hp : s.port = some t0) (ho : t0.owner = .composer)
    (he : composerDone s = x) (hj : claimsJoined x) :
    ∃ t, exec .composerTransferCompletion s = .next t ∧ besidesStatus t = besidesStatus x := by
  subst he
  exact event_effect (carriesComposer s) composerDone s (by simp [carriesComposer, hp, ho]) hj

theorem opDone_keeps (op : Op) (rest : List Op) (w : Word) (s : State) :
    (opDone op rest w s).composer.abortMark = s.composer.abortMark ∧
      (opDone op rest w s).composer.listPhase = s.composer.listPhase := by
  cases op with
  | eraseCell p => unfold opDone; dsimp only; split <;> exact ⟨rfl, rfl⟩
  | _ => exact ⟨rfl, rfl⟩

/-- With no abort due the composer goes on with its work. -/
theorem carryComposer_opDone {op : Op} {rest : List Op} {w : Word} {s : State} (h : noAbort s) :
    carryComposer (opDone op rest w s) = carryOn 16 (opDone op rest w s) := by
  obtain ⟨h1, h2⟩ := opDone_keeps op rest w s
  have hd : abortDue (opDone op rest w s) = false := abortDue_noAbort (by unfold noAbort; rw [h1, h2]; exact h)
  unfold carryComposer
  rw [if_neg (by simp [hd])]
  rfl

theorem composerDone_read {s : State} {a : WordAddr} {op : Op} {rest : List Op}
    (hp : s.port = some { owner := .composer, addr := a, op := .read, orphan := false })
    (ht : s.composer.todo = op :: rest) (ha : noAbort s) :
    composerDone s = carryOn 16 (opDone op rest (readWord s.mem a) { s with port := none }) := by
  unfold composerDone
  rw [hp]
  simp only [portDone, memAfter, learnTransfer, ht, Bool.false_eq_true, if_false]
  exact carryComposer_opDone (by exact ha)

/-- A whole-cell move writes the word last read (R2). -/
theorem carryOn_writeBack (n p : Nat) (rest : List Op) {u : SetupBlock} {s : State} (hu : s.setup.active = some u) :
    carryOn (n + 1) (setTodo (.writeBack p :: rest) s) =
      claiming (cellAddr u p) (.write .word (lastRead s)) (.writeBack p :: rest) s :=
  carryOn_op n (s := setTodo (.writeBack p :: rest) s) (op := .writeBack p) rfl (by simp) hu

/-- A cell to be erased that is null is left. -/
theorem opDone_null {p : Nat} {rest : List Op} {w : Word} {s : State} (h : w = 0x0000#16) :
    opDone (.eraseCell p) rest w s = setTodo rest s := if_pos h

/-- One that is not is written next. -/
theorem opDone_notNull {p : Nat} {rest : List Op} {w : Word} {s : State} (h : w ≠ 0x0000#16) :
    opDone (.eraseCell p) rest w s = setTodo (.write p 0x0000#16 :: rest) s := if_neg h

/-! ### A write -/

theorem pauseLeft_form (s : State) : ∃ r b c, pauseLeft s = { s with report := r, attn := b, composer := c } ∧
    c.cursor = s.composer.cursor ∧ (c = s.composer ∨ c.todo = []) := by
  unfold pauseLeft
  split
  · unfold completeDirective
    repeat' split
    all_goals exact ⟨_, _, _, rfl, rfl, .inr rfl⟩
  · exact ⟨_, _, _, rfl, rfl, .inr rfl⟩
  all_goals exact ⟨_, _, _, rfl, rfl, .inl rfl⟩

/-- What upkeep can change, and that it takes the composer's work away only at the end of a rebuild (R11, R21). -/
theorem upkeep_form (p : Nat) (w : Word) (s : State) : ∃ m i a r b c cl,
    upkeep p w s =
      { s with map := m, inHand := i, answer := a, report := r, attn := b, composer := c, composerClaim := cl } ∧
      c.cursor = s.composer.cursor ∧ (c = s.composer ∨ c.todo = []) ∧
      (s.map.state ≠ .rebuilding → c = s.composer) := by
  unfold upkeep
  cases hm : s.map.state with
  | unbuilt | limit => exact ⟨_, _, _, _, _, _, _, rfl, rfl, .inl rfl, fun _ => rfl⟩
  | current =>
    dsimp only
    split
    next m _ =>
      obtain ⟨i, hf⟩ := followWrite_hand p w m s
      exact ⟨m, i, _, _, _, _, _, hf, rfl, .inl rfl, fun _ => rfl⟩
    next => exact ⟨_, _, _, _, _, _, _, rfl, rfl, .inl rfl, fun _ => rfl⟩
  | rebuilding =>
    dsimp only
    repeat' split
    · exact ⟨_, _, _, _, _, _, _, rfl, rfl, .inl rfl, fun _ => rfl⟩
    · obtain ⟨r, b, c, hp, hc, ht⟩ := pauseLeft_form (scanLimit s)
      obtain ⟨i, a, r', b', hd⟩ := decideHeld_form (pauseLeft (scanLimit s))
      have e : rebuildLimit s = decideHeld (pauseLeft (scanLimit s)) := rfl
      rw [e, hd, hp]
      exact ⟨_, i, a, r', b', c, _, rfl, hc, ht, fun h => absurd rfl h⟩
    · exact ⟨_, _, _, _, _, _, _, rfl, rfl, .inl rfl, fun _ => rfl⟩

theorem learnTransfer_form (t : PortTransfer) (s : State) : ∃ m i a r b c cl,
    learnTransfer t s =
      { s with map := m, inHand := i, answer := a, report := r, attn := b, composer := c, composerClaim := cl } ∧
      c.cursor = s.composer.cursor ∧ (c = s.composer ∨ c.todo = []) ∧
      (s.map.state ≠ .rebuilding → c = s.composer) := by
  unfold learnTransfer learnWrite
  split
  · exact ⟨_, _, _, _, _, _, _, rfl, rfl, .inl rfl, fun _ => rfl⟩
  · split
    · exact ⟨_, _, _, _, _, _, _, rfl, rfl, .inl rfl, fun _ => rfl⟩
    · split
      · exact upkeep_form _ _ s
      · exact ⟨_, _, _, _, _, _, _, rfl, rfl, .inl rfl, fun _ => rfl⟩

theorem beginOp_form (u : SetupBlock) (op : Op) (s : State) : ∃ cl po pd,
    beginOp u op s = { s with composerClaim := cl, posting := po, composer.posted := pd } := by
  cases op <;> exact ⟨_, _, _, rfl⟩

/-- The composer's write of a word. -/
abbrev composerWrite (a : WordAddr) (w : Word) : PortTransfer :=
  { owner := .composer, addr := a, op := .write .word w, orphan := false }

/-- The write on the port done at memory and learnt by the map. -/
def writeLearnt (a : WordAddr) (w : Word) (s : State) : State :=
  learnTransfer (composerWrite a w) (portDone (composerWrite a w) s)

/-- A write of the composer with a transfer or posting behind it. -/
structure NextDue (u : SetupBlock) (a : WordAddr) (w : Word) (head next : Op) (rest : List Op) (s : State) : Prop where
  active : s.setup.active = some u
  noAbort : noAbort s
  port : s.port = some (composerWrite a w)
  todo : s.composer.todo = head :: next :: rest
  waits : ∀ k, next ≠ .call k
  writes : (∃ p v, head = .write p v) ∨ (∃ p, head = .writeBack p) ∨ ∃ i v, head = .list i v

section
variable {u : SetupBlock} {a : WordAddr} {w : Word} {head next : Op} {rest : List Op} {s : State}
  (h : NextDue u a w head next rest s)
include h

/-- A rebuild that ended in this write has taken the composer's work away. -/
theorem NextDue.taken (ht : (writeLearnt a w s).composer.todo = []) : composerDone s = writeLearnt a w s := by
  unfold composerDone
  rw [h.port]
  dsimp only
  rw [if_neg (by simp)]
  have e : learnTransfer (composerWrite a w) (portDone (composerWrite a w) s) = writeLearnt a w s := rfl
  rw [e, ht]

theorem NextDue.carries (hc : (writeLearnt a w s).composer = s.composer) (hs : (writeLearnt a w s).setup = s.setup) :
    composerDone s = beginOp u next (setTodo (next :: rest) (writeLearnt a w s)) := by
  have hd : ∀ x y, opDone head (next :: rest) x y = setTodo (next :: rest) y := by
    intro x y
    rcases h.writes with ⟨p, v, rfl⟩ | ⟨p, rfl⟩ | ⟨i, v, rfl⟩ <;> rfl
  unfold composerDone
  rw [h.port]
  dsimp only
  rw [if_neg (by simp)]
  have e : learnTransfer (composerWrite a w) (portDone (composerWrite a w) s) = writeLearnt a w s := rfl
  rw [e, hc, h.todo]
  dsimp only
  rw [carryComposer_opDone (by unfold Machine.noAbort; rw [hc]; exact h.noAbort), hd]
  exact carryOn_op 15 (s := setTodo (next :: rest) (writeLearnt a w s)) rfl h.waits (by rw [← h.active, ← hs]; rfl)

/-- What the write leaves as it was, whatever the map makes of it. -/
theorem NextDue.form : ∃ m i b r at' c cl po,
    composerDone s =
      { s with
        mem := writeLanes s.mem a .word w, port := none, map := m, inHand := i, answer := b, report := r, attn := at',
        composer := c, composerClaim := cl, posting := po } ∧ c.cursor = s.composer.cursor := by
  obtain ⟨m, i, b, r, at', c, cl, hl, hcur, hct, -⟩ :=
    learnTransfer_form (composerWrite a w) (portDone (composerWrite a w) s)
  change writeLearnt a w s = _ at hl
  rcases hct with hc | hc
  · obtain ⟨cl', po, pd, hb⟩ := beginOp_form u next (setTodo (next :: rest) (writeLearnt a w s))
    have he := h.carries (by rw [hl]; exact hc) (by rw [hl]; rfl)
    rw [hb, hl] at he
    exact ⟨m, i, b, r, at', _, cl', po, he, hcur⟩
  · have he := h.taken (by rw [hl]; exact hc)
    exact ⟨m, i, b, r, at', c, cl, _, he.trans hl, hcur⟩

/-- Outside a rebuild the next transfer is begun. -/
theorem NextDue.begun (hm : s.map.state ≠ .rebuilding) : ∃ y : State, y.composer = s.composer ∧
    composerDone s = beginOp u next (setTodo (next :: rest) y) := by
  obtain ⟨m, i, b, r, at', c, cl, hl, -, -, hc⟩ :=
    learnTransfer_form (composerWrite a w) (portDone (composerWrite a w) s)
  change writeLearnt a w s = _ at hl
  have hcomp : (writeLearnt a w s).composer = s.composer := by rw [hl]; exact hc hm
  exact ⟨_, hcomp, h.carries hcomp (by rw [hl]; rfl)⟩

end

/-! ### The statement -/

/-- Settles O42. -/
theorem composerTransfersOneByOne : Obligations.ComposerTransfersOneByOne := by
  intro s u a p q w v rest hj hw hu ha
  refine ⟨fun hp => ?_, fun head next hp ht hn hh => ?_⟩
  · have go {op : Op} {rest : List Op} {x : State} (ht : s.composer.todo = op :: rest)
        (hx : carryOn 16 (opDone op rest (readWord s.mem a) { s with port := none }) = x) (hjx : claimsJoined x) :
        ∃ t, exec .composerTransferCompletion s = .next t ∧ besidesStatus t = besidesStatus x :=
      composer_next hp rfl ((composerDone_read hp ht ha).trans hx) hjx
    refine ⟨fun ht => go ht (carryOn_read 15 q rest (by exact hu)) hj,
      fun ht => go ht (carryOn_writeBack 15 q rest (by exact hu)) hj, fun ht h0 => go ht ?_ hj, fun ht h0 => go ht ?_ hj,
      fun ht h0 => go ht ?_ hj⟩
    · rw [opDone_null h0]; exact carryOn_eraseCell 15 q rest (by exact hu)
    · rw [opDone_null h0]; exact carryOn_write 15 q v rest (by exact hu)
    · rw [opDone_notNull h0]; exact carryOn_write 15 p _ rest (by exact hu)
  · have h : NextDue u a w head next rest s := ⟨hu, ha, hp, ht, hn, hh.imp (fun e => ⟨_, _, e⟩)
      (fun e => e.imp (fun e => ⟨_, e⟩) (fun e => ⟨_, _, e⟩))⟩
    obtain ⟨m, i, b, r, at', c, cl, po, he, hcur⟩ := h.form
    obtain ⟨t, hx, hb⟩ := composer_next hp rfl he hj
    have f {α : Type} (k : State → α) := congrArg k hb
    have hmem : t.mem = writeLanes s.mem a .word w := f (·.mem)
    refine ⟨t, hx, by rw [hmem]; exact readWord_writeWord _ _ _ hw,
      fun b h0 h1 => by rw [hmem]; exact readByte_writeLanes_other _ _ _ _ _ hw h0 h1,
      f (·.port), f (·.setup), f (·.queue), f (·.slots), f (·.lock), (f (·.composer.cursor)).trans hcur,
      fun b op hop hm => ?_⟩
    obtain ⟨y, hy, hbegun⟩ := h.begun hm
    have hcomp : t.composer = (beginOp u next (setTodo (next :: rest) y)).composer :=
      (f (·.composer)).trans (show c = _ from congrArg State.composer (he.symm.trans hbegun))
    have hclaim : t.composerClaim = (beginOp u next (setTodo (next :: rest) y)).composerClaim :=
      (f (·.composerClaim)).trans (show cl = _ from congrArg State.composerClaim (he.symm.trans hbegun))
    rw [hcomp, hclaim]
    rcases hop with ⟨rfl, rfl, rfl⟩ | ⟨rfl, rfl, rfl⟩ | ⟨rfl, rfl, rfl⟩ | ⟨rfl, rfl, rfl⟩ | ⟨rfl, rfl, rfl⟩
    case inr.inr.inr.inl => rw [← hy]; exact ⟨rfl, rfl⟩
    all_goals exact ⟨rfl, rfl⟩

end Sys2Proof.Machine
end

section
/-! The erase pass and the clear-modified pass (R140, R146, R154, R179). -/

namespace Sys2Proof.Machine

/-! ### The erase pass laid out -/

/-- A field without data cells has none to erase, protected or not. -/
theorem eraseField_cells (n : Nat) (f : Field) :
    (if eligible f then (fieldCells n f 0 f.len).map Op.eraseCell else []) =
      if isProtected f.word = false then (List.range f.len).map (fun j => Op.eraseCell (posAt n f j)) else [] := by
  have hc : (fieldCells n f 0 f.len).map Op.eraseCell = (List.range f.len).map (fun j => Op.eraseCell (posAt n f j)) := by
    simp [fieldCells, Function.comp_def]
  unfold eligible
  rw [hc]
  cases isProtected f.word with
  | true => simp
  | false =>
    by_cases hl : 1 ≤ f.len
    · simp [hl]
    · have h0 : f.len = 0 := by omega
      simp [h0]

/-- HOM's destination does not depend on the unformatted-modified flag. -/
theorem homDest_modified (n : Nat) (m m' : Bool) (table : List Entry) :
    homDest (walkFields n m table) = homDest (walkFields n m' table) := by
  cases table with
  | nil =>
    have h (b : Bool) : isProtected (if b then 0x8100#16 else 0x8000#16) = false := by cases b <;> rfl
    simp only [homDest, walkFields, unformattedField, eligible, List.find?_cons, h]
    cases decide (1 ≤ n) <;> rfl
  | cons e r => rfl

/-! ### Its end -/

/-- The work of an erase pass: EIN, CLR, or CLIN with its intake running. -/
def erasing (s : State) : Prop :=
  s.composer.work = .token (.key 0x8C#8) ∨ s.composer.work = .token (.key 0xCF#8) ∨
    ((∃ op, s.composer.work = .directive .clin op) ∧ s.report.intake.state = .running)

/-- The flag of an unformatted screen cleared (R140). -/
def flagCleared (s : State) : State := { s with map.modified := s.map.modified && !s.map.table.isEmpty }

/-- The hold of CLR released, the cursor moved (R154). -/
def clrReleased (home : Nat) (s : State) : State :=
  { flagCleared s with heldRange := .empty, posting := none, composer.posted := .empty, composer.cursor := home }

theorem eraseFollowed_ein {s : State} (u : SetupBlock) (home : Nat) (h : s.composer.work = .token (.key 0x8C#8)) :
    eraseFollowed u home s = workEnded home (flagCleared s) := by
  unfold eraseFollowed; rw [h]; rfl

theorem eraseFollowed_clr {s : State} (u : SetupBlock) (home : Nat) (h : s.composer.work = .token (.key 0xCF#8)) :
    eraseFollowed u home s = sendLocked u (clrReleased home s) := by
  unfold eraseFollowed; rw [h]; rfl

theorem eraseFollowed_clin {s : State} (u : SetupBlock) (home : Nat) {d : Directive} {op : Word}
    (h : s.composer.work = .directive d op) : eraseFollowed u home s = directiveEnded home .done (flagCleared s) := by
  unfold eraseFollowed; rw [h]; rfl

theorem sendLocked_setTodo (u : SetupBlock) (ops : List Op) (s : State) : sendLocked u (setTodo ops s) = sendLocked u s := by
  have ha : (setTodo ops s).composer.abortMark = s.composer.abortMark := rfl
  unfold sendLocked
  dsimp only
  split
  · rw [ha]; split <;> rfl
  · rfl

/-- What follows the pass does not depend on the work then left. -/
theorem eraseFollowed_setTodo {s : State} (h : erasing s) (u : SetupBlock) (home : Nat) (ops : List Op) :
    eraseFollowed u home (setTodo ops s) = eraseFollowed u home s := by
  rcases h with h | h | ⟨⟨op, h⟩, -⟩
  · rw [eraseFollowed_ein u home h, eraseFollowed_ein u home (by exact h)]; rfl
  · rw [eraseFollowed_clr u home h, eraseFollowed_clr u home (by exact h)]
    exact sendLocked_setTodo u ops (clrReleased home s)
  · rw [eraseFollowed_clin u home h, eraseFollowed_clin u home (d := .clin) (op := op) (by exact h)]; rfl

/-- The cursor moved as HOM moves it, over the working table. -/
def eraseMoved (s : State) : State := setCursor (homDest (flagCleared s).workingFields) (flagCleared s)

theorem eraseMoved_eq {u : SetupBlock} {s : State} (hu : s.setup.active = some u) :
    eraseMoved s = { flagCleared s with composer.cursor := homDest s.workingFields % formSize u } := by
  have hn : s.formN = formSize u := by simp [State.formN, hu]
  have hh : homDest (flagCleared s).workingFields = homDest s.workingFields := homDest_modified _ _ _ _
  unfold eraseMoved
  rw [hh, ← hn]
  rfl

theorem eraseEnded_ein {s : State} (hw : s.composer.work = .token (.key 0x8C#8)) :
    eraseEnded s = endWork (eraseMoved s) := by
  have h : (eraseMoved s).composer.work = .token (.key 0x8C#8) := hw
  unfold eraseMoved flagCleared at *
  unfold eraseEnded
  dsimp only
  rw [h]
  rfl

theorem eraseEnded_clr {s : State} (hw : s.composer.work = .token (.key 0xCF#8)) :
    eraseEnded s = lockAndList (releaseRange (eraseMoved s)) := by
  have h : (eraseMoved s).composer.work = .token (.key 0xCF#8) := hw
  unfold eraseMoved flagCleared at *
  unfold eraseEnded
  dsimp only
  rw [h]
  rfl

theorem eraseEnded_clin {s : State} {d : Directive} {op : Word} (hw : s.composer.work = .directive d op) :
    eraseEnded s = finishDirective .done (eraseMoved s) := by
  have h : (eraseMoved s).composer.work = .directive d op := hw
  unfold eraseMoved flagCleared at *
  unfold eraseEnded
  dsimp only
  rw [h]

theorem carryOn_directiveEnded (n x : Nat) (k : Completion) (s : State) :
    carryOn n (directiveEnded x k s) = directiveEnded x k s := carryOn_nil n rfl

/-- The end of the pass, and what the composer goes on to in the same event. -/
theorem carryOn_eraseEnded (n : Nat) {u : SetupBlock} {s : State} (hu : s.setup.active = some u) (h1 : s.inHand = none)
    (h2 : s.processorInFlight = false) (hw : erasing s) :
    carryOn (n + 1) (eraseEnded s) = eraseFollowed u (homDest s.workingFields % formSize u) s := by
  have hm := eraseMoved_eq hu
  have hi : (eraseMoved s).inHand = none := h1
  have hf : (eraseMoved s).processorInFlight = false := h2
  rcases hw with hw | hw | ⟨⟨op, hw⟩, hrun⟩
  · rw [eraseEnded_ein hw, endWork_key _ _ hi hf (by exact hw), carryOn_workEnded, eraseFollowed_ein u _ hw, hm]
    rfl
  · rw [eraseEnded_clr hw, releaseRange_alone _ hi hf, carryOn_lockAndList n 0xCF#8 (by exact hu) (by exact hi)
      (by exact hf) (by exact hw), eraseFollowed_clr u _ hw, hm]
    rfl
  · rw [eraseEnded_clin hw, finishDirective_running _ _ _ _ hi hf (by exact hw) (by exact hrun), carryOn_directiveEnded,
      eraseFollowed_clin u _ hw, hm]
    rfl

/-! ### The pass laid out under WHOLE -/

/-- The transfers of the pass over the table that is live when WHOLE is taken. -/
def eraseOps (s : State) : List Op := s.liveFields.flatMap (eraseField s.formN) ++ [.call .eraseDone]

theorem erasePass_current {s : State} (h : s.map.state = .current) :
    erasePass s = setTodo (eraseOps s) { s with composer.workingTable := some s.map.table } := by
  unfold erasePass
  rw [h]
  rfl

theorem erasePass_limit_token {s : State} {t : Token} (h : s.map.state = .limit) (hw : s.composer.work = .token t) :
    erasePass s = refuse .formatLimit s := by
  unfold erasePass erasePass.eraseRefused
  rw [h, hw]

theorem erasePass_limit_directive {s : State} {d : Directive} {op : Word} (h : s.map.state = .limit)
    (hw : s.composer.work = .directive d op) : erasePass s = finishDirective .refusedState s := by
  unfold erasePass erasePass.eraseRefused
  rw [h, hw]

/-! ### The clear-modified pass -/

theorem cellOn_setTodo (d : Directive) (p : Nat) (ops : List Op) (s : State) :
    cellOn d p (setTodo ops s) = cellOn d p s := by
  have ht : (setTodo ops s).map = s.map := rfl
  unfold cellOn
  rw [ht]
  split
  · rfl
  · split <;> rfl

theorem unlockKeyboard_eq (s : State) :
    unlockKeyboard s =
      { s with lock := match s.lock with | .system _ => .opened | .opened => .opened | .error c => .error c } := by
  unfold unlockKeyboard
  cases h : s.lock <;> simp [← h]

/-- The directive completes at the end of the pass, UNLK after its unlock (R146, R175). -/
theorem passEnded_done {s : State} {d : Directive} {op : Word} (hw : s.composer.work = .directive d op) :
    passEnded s = finishDirective .done (if d = .unlk then unlockKeyboard s else s) := by
  unfold passEnded
  rw [hw]
  cases d <;> rfl

/-- The step after the mark at p has been handled: the next mark above it, or the end of the pass. -/
theorem carryOn_cellStep (n : Nat) {u : SetupBlock} {s : State} {d : Directive} {op : Word} (p : Nat)
    (hu : s.setup.active = some u) (h1 : s.inHand = none) (h2 : s.processorInFlight = false)
    (hw : s.composer.work = .directive d op) (hi : s.report.intake.state = .running) :
    carryOn (n + 1) (cellStep { s with composer.lastHandled := some p }) = cellOn d p s := by
  unfold cellStep cellOn
  simp only [Option.all_some]
  cases s.map.table.find? (fun e => decide (p < e.pos)) with
  | some e => exact carryOn_post n _ _ (by exact hu)
  | none =>
    dsimp only
    rw [passEnded_done (d := d) (op := op) (by exact hw)]
    by_cases hd : d = .unlk
    · rw [if_pos hd, if_pos hd, unlockKeyboard_eq,
        finishDirective_running _ _ d op (by exact h1) (by exact h2) (by exact hw) (by exact hi), carryOn_directiveEnded]
      rfl
    · rw [if_neg hd, if_neg hd,
        finishDirective_running _ _ d op (by exact h1) (by exact h2) (by exact hw) (by exact hi), carryOn_directiveEnded]
      rfl

theorem cellHeld_modified {s : State} {p : Nat} {e : Entry} (he : entryAt s.map.table p = some e)
    (hm : isModified e.word = true) :
    cellHeld p s = setTodo [.write p (withoutModified e.word), .call (.cellDone p)] s := by
  simp [cellHeld, he, hm]

theorem cellHeld_clear {s : State} {p : Nat} (h : ∀ e, entryAt s.map.table p = some e → isModified e.word = false) :
    cellHeld p s = cellStep { s with composer.lastHandled := some p } := by
  unfold cellHeld
  split
  next e he => rw [if_neg (by simp [h e he])]
  next => rfl

/-! ### The statement -/

theorem refusedAt_taken (x : Nat) (c : ErrorCode) (r : HeldRange) (s : State) :
    refusedAt x c (setTodo [] (rangeTaken r s)) = refusedAt x c s := by
  have hl : (setTodo [] (rangeTaken r s)).lock = s.lock := rfl
  unfold refusedAt
  rw [hl]
  split <;> rfl

/-- A state whose port carries nothing has no processor transfer in flight. -/
theorem processorInFlight_none {s : State} (h : s.port = none) : s.processorInFlight = false := by
  simp [State.processorInFlight, h]

/-- The pass begins when WHOLE is taken. -/
theorem erasePass_runs {u : SetupBlock} {s x : State} (h : postingDue u .whole .eraseTaken s)
    (hx : carryOn 15 (erasePass (setTodo [] (rangeTaken .whole s))) = x) :
    ∃ t, exec .heldRangePosting s = .next t ∧ besidesStatus t = besidesStatus x := by
  obtain ⟨t, ht, hb⟩ := posting_runs h
  exact ⟨t, ht, hb.trans (congrArg besidesStatus hx)⟩

/-- The pass's last cell was null already (R140). -/
theorem eraseDone_runs {u : SetupBlock} {a : WordAddr} {p : Nat} {s : State} (hj : claimsJoined s)
    (hu : s.setup.active = some u) (hi : s.inHand = none) (ha : noAbort s)
    (hp : s.port = some { owner := .composer, addr := a, op := .read, orphan := false })
    (ht : s.composer.todo = [.eraseCell p, .call .eraseDone]) (h0 : readWord s.mem a = 0x0000#16) (hw : erasing s) :
    ∃ t, exec .composerTransferCompletion s = .next t ∧
      besidesStatus t =
        besidesStatus (eraseFollowed u (homDest s.workingFields % formSize u) { s with port := none }) := by
  have hf := processorInFlight_none (s := setTodo [] { s with port := none }) rfl
  have hd : composerDone s = carryOn 15 (eraseEnded (setTodo [] { s with port := none })) := by
    rw [composerDone_read hp ht ha, opDone_null h0]
    exact carryOn_call 15 (s := setTodo [.call .eraseDone] { s with port := none }) rfl
  have he : composerDone s = eraseFollowed u (homDest s.workingFields % formSize u) { s with port := none } := by
    rw [hd, carryOn_eraseEnded 14 (by exact hu) (by exact hi) hf (by exact hw)]
    exact eraseFollowed_setTodo (s := { s with port := none }) hw u _ []
  refine composer_next hp rfl he ?_
  rw [← he, hd]
  exact claimsJoined_outside (s := { s with port := none }) (by rw [outside_carryOn, outside_eraseEnded]; rfl) hj

/-- Settles O41. -/
theorem eraseAndClearPassesRun : Obligations.EraseAndClearPassesRun := by
  refine ⟨fun s u h => ?_, fun s u hw => ⟨fun p w hd => ?_, fun a p hj hu hi ha hp ht h0 => ?_⟩,
    fun s u p d op h hw hr => ?_, fun s u p w d op h hw hr => ?_⟩
  · obtain ⟨-, hu, hi, hf, -, -⟩ := id h
    have hn : s.formN = formSize u := by simp [State.formN, hu]
    intro n result ops taken
    have hops : eraseOps s = ops := by
      have hfield : eraseField s.formN = fun f =>
          (if isProtected f.word = false then (List.range f.len).map (fun j => Op.eraseCell (posAt n f j)) else []) ++
            (match f.mark with
             | some m => if isModified f.word then [Op.write m (f.word &&& 0xFEFF#16)] else []
             | none => []) := by
        funext f
        rw [hn]
        unfold eraseField
        rw [eraseField_cells]
        cases f.mark <;> rfl
      exact congrArg (fun g => s.liveFields.flatMap g ++ [Op.call .eraseDone]) hfield
    have hcur (hm : s.map.state = .current) :
        erasePass (setTodo [] (rangeTaken .whole s)) = setTodo ops (setTodo [] taken) := by
      rw [erasePass_current (by exact hm), ← hops]; rfl
    refine ⟨fun p rest hm ho => ?_, fun p w rest hm ho => ?_, fun hm ho hw => ?_, fun code hm hw => ?_,
      fun op hm hw hr => ?_⟩
    · refine erasePass_runs h ?_
      rw [hcur hm, ho, carryOn_eraseCell 14 p rest (by exact hu)]
      rfl
    · refine erasePass_runs h ?_
      rw [hcur hm, ho, carryOn_write 14 p w rest (by exact hu)]
      rfl
    · refine erasePass_runs h ?_
      have hc : carryOn 15 (setTodo [.call .eraseDone] (setTodo [] taken)) = carryOn 14 (eraseEnded (setTodo [] taken)) :=
        carryOn_call 14 (s := setTodo [.call .eraseDone] (setTodo [] taken)) rfl
      rw [hcur hm, ho, hc, carryOn_eraseEnded 13 (by exact hu) (by exact hi) (by exact hf) (by exact hw)]
      exact eraseFollowed_setTodo (s := taken) hw u _ []
    · refine erasePass_runs h ?_
      rw [erasePass_limit_token (by exact hm) (by exact hw),
        carryOn_refuse_key 15 _ _ code (by exact hi) (by exact hf) (by exact hw)]
      exact refusedAt_taken _ _ _ s
    · refine erasePass_runs h ?_
      rw [erasePass_limit_directive (by exact hm) (by exact hw),
        finishDirective_running _ _ .clin op (by exact hi) (by exact hf) (by exact hw) (by exact hr), carryOn_directiveEnded]
      rfl
  · obtain ⟨t, ht, hb⟩ := write_runs hd
    obtain ⟨-, -, hu, hi, -⟩ := hd
    refine ⟨t, ht, hb.trans (congrArg besidesStatus ?_)⟩
    have hf := processorInFlight_none (s := setTodo [] (wordWritten u p w s)) rfl
    exact (carryOn_eraseEnded 14 (s := setTodo [] (wordWritten u p w s)) hu hi hf hw).trans
      (eraseFollowed_setTodo (s := wordWritten u p w s) hw u _ [])
  · exact eraseDone_runs hj hu hi ha hp ht h0 hw
  · obtain ⟨t, ht, hb⟩ := posting_runs h
    obtain ⟨-, hu, hi, hf, -, -⟩ := h
    refine ⟨fun e he hm => ⟨t, ht, hb.trans (congrArg besidesStatus ?_)⟩,
      fun he => ⟨t, ht, hb.trans (congrArg besidesStatus ?_)⟩⟩
    · show carryOn 15 (cellHeld p (setTodo [] (rangeTaken (.cell p) s))) = _
      rw [cellHeld_modified (by exact he) hm, carryOn_write 14 p _ _ (by exact hu)]
      rfl
    · show carryOn 15 (cellHeld p (setTodo [] (rangeTaken (.cell p) s))) = _
      rw [cellHeld_clear (by exact he),
        carryOn_cellStep 14 (d := d) (op := op) p (by exact hu) (by exact hi) (by exact hf) (by exact hw) (by exact hr)]
      exact cellOn_setTodo d p [] _
  · obtain ⟨t, ht, hb⟩ := write_runs h
    obtain ⟨-, -, hu, hi, -⟩ := h
    refine ⟨t, ht, hb.trans (congrArg besidesStatus ?_)⟩
    have hf := processorInFlight_none (s := setTodo [] (wordWritten u p w s)) rfl
    exact (carryOn_cellStep 14 (s := setTodo [] (wordWritten u p w s)) p hu hi hf hw hr).trans (cellOn_setTodo d p [] _)

end Sys2Proof.Machine
end

section
/-! The arithmetic of entries: adjust, the minus form and the check digit (R38 to R43). -/

namespace Sys2Proof.Machine

/-! ### Adjust and the minus form -/

/-- Settles O51: each ADJUST class by its own fill, the lengths by the laws of the two forms. -/
theorem adjustKeepsSignificantCells : Obligations.AdjustKeepsSignificantCells := by
  intro a ws significant fill
  have hfill : fillCell a = fill := by cases a <;> rfl
  have hsig : significantCells ws = significant := rfl
  refine ⟨fun h => by rw [h]; rfl, fun h => ?_, adjustCells_length a ws, ?_, minusCells_length a ws⟩
  · rw [← hfill, ← hsig]
    cases a with
    | none => exact absurd rfl h
    | zero | blank | null => rfl
  · rw [← hfill, ← hsig]; rfl

/-! ### The check digit -/

/-- The character of a digit. -/
def digitChar (x : Nat) : Byte := BitVec.ofNat 8 (0x30 + x)

section
variable {x : Nat} (h : x < 10)
include h

theorem digitChar_toNat : (digitChar x).toNat = 0x30 + x := by
  unfold digitChar
  rw [BitVec.toNat_ofNat, Nat.mod_eq_of_lt (by omega)]

theorem isDigit_digitChar : isDigit (digitChar x) = true := by
  unfold isDigit
  rw [digitChar_toNat h, Bool.and_eq_true, decide_eq_true_iff, decide_eq_true_iff]
  omega

theorem isSignificant_digitChar : isSignificant (digitChar x) = true := by
  have hne (b : Byte) (hb : b.toNat < 0x30) : digitChar x ≠ b := by
    intro e
    have := digitChar_toNat h
    rw [e] at this
    omega
  unfold isSignificant
  rw [Bool.and_eq_true, bne_iff_ne, bne_iff_ne]
  exact ⟨hne _ (by decide), hne _ (by decide)⟩

theorem digitValue_digitChar : digitValue (digitChar x) = x := by
  unfold digitValue
  rw [digitChar_toNat h]
  omega

end

/-- What the data digit at a place, counted from 0 at the rightmost, adds to the weighted sum (R42). -/
def placedTerm (sch : CheckScheme) (p : Nat × Nat) : Nat :=
  if p.2 % 2 = 1 then p.1
  else match sch with
    | .weighted => 3 * p.1
    | .doubling => if 9 < 2 * p.1 then 2 * p.1 - 9 else 2 * p.1

theorem digitTerm_eq (sch : CheckScheme) (d k : Nat) : digitTerm sch (k % 2 == 0) d = placedTerm sch (d, k) := by
  rcases Nat.mod_two_eq_zero_or_one k with hk | hk
  · cases sch <;> simp [digitTerm, placedTerm, hk]
  · cases sch <;> simp [digitTerm, placedTerm, hk]

/-- The weighted sum place by place (R42). -/
theorem weightedSum_eq (sch : CheckScheme) (ds : List Nat) (k : Nat) :
    weightedSum sch (k % 2 == 0) ds = ((ds.zipIdx k).map (placedTerm sch)).sum := by
  induction ds generalizing k with
  | nil => rfl
  | cons d r ih =>
    have hodd : (!(k % 2 == 0)) = ((k + 1) % 2 == 0) := by
      rcases Nat.mod_two_eq_zero_or_one k with hk | hk <;> simp [hk, Nat.add_mod]
    rw [weightedSum, hodd, ih, digitTerm_eq, List.zipIdx_cons, List.map_cons, List.sum_cons]

/-- On digits the check test compares the last one with the expected check of the others (R41, R43). -/
theorem checkPasses_digits (sch : CheckScheme) {ds : List Nat} {d : Nat} (hne : ds ≠ []) (hds : ∀ x ∈ ds, x < 10)
    (hd : d < 10) :
    checkPasses sch (ds.map digitChar ++ [digitChar d]) = decide (d = expectedCheck sch ds.reverse) := by
  have hfilter : (ds.map digitChar ++ [digitChar d]).filter isSignificant = ds.map digitChar ++ [digitChar d] := by
    refine List.filter_eq_self.mpr fun c hc => ?_
    rcases List.mem_append.mp hc with hc | hc
    · obtain ⟨x, hx, rfl⟩ := List.mem_map.mp hc
      exact isSignificant_digitChar (hds x hx)
    · rw [List.mem_singleton.mp hc]
      exact isSignificant_digitChar hd
  have hdigits : ((ds.map digitChar).reverse).all isDigit = true := by
    refine List.all_eq_true.mpr fun c hc => ?_
    obtain ⟨x, hx, rfl⟩ := List.mem_map.mp (List.mem_reverse.mp hc)
    exact isDigit_digitChar (hds x hx)
  have hvalues : ((ds.map digitChar).reverse).map digitValue = ds.reverse := by
    rw [← List.map_reverse, List.map_map]
    refine List.map_congr_left (fun x hx => ?_) |>.trans (List.map_id _)
    exact digitValue_digitChar (hds x (List.mem_reverse.mp hx))
  have hsome : ((ds.map digitChar).reverse).isEmpty = false := by simpa using hne
  unfold checkPasses
  rw [hfilter, List.reverse_append, List.reverse_singleton, List.singleton_append]
  dsimp only
  rw [List.all_cons, isDigit_digitChar hd, hdigits, hsome, hvalues, digitValue_digitChar hd]
  rfl

/-- Settles O52: the digits pass the filter and the digit test, and the weighted sum is taken place by place. -/
theorem checkDigitDecides : Obligations.CheckDigitDecides := by
  intro sch ds d hne hds hd char term sum
  have hsum : weightedSum sch true ds.reverse = sum := weightedSum_eq sch ds.reverse 0
  have h := checkPasses_digits sch hne hds hd
  unfold expectedCheck at h
  rw [hsum] at h
  exact h

end Sys2Proof.Machine
end

section
/-! The rows of the field-moving keys and of the tokens that take hold: where a key moves the cursor, and what its hold
posts (R29 to R34, R127, R136). -/

namespace Sys2Proof.Machine

/-! ### The nearest of some places -/

/-- The least number of a list is one of them and below no other. -/
theorem leastOf_cases (l : List Nat) :
    (l = [] ∧ leastOf l = none) ∨ ∃ d ∈ l, leastOf l = some d ∧ ∀ b ∈ l, d ≤ b := by
  induction l with
  | nil => exact .inl ⟨rfl, rfl⟩
  | cons a r ih =>
    right
    rcases ih with ⟨rfl, -⟩ | ⟨d, hd, hr, hle⟩
    · exact ⟨a, by simp, rfl, by simp⟩
    · unfold leastOf
      rw [hr]
      by_cases ha : a ≤ d
      · refine ⟨a, by simp, by simp [ha], fun b hb => ?_⟩
        rcases List.mem_cons.mp hb with rfl | hb
        · exact Nat.le_refl _
        · exact ha.trans (hle b hb)
      · refine ⟨d, by simp [hd], by simp [ha], fun b hb => ?_⟩
        rcases List.mem_cons.mp hb with rfl | hb
        · omega
        · exact hle b hb

theorem leastOf_eq_some {l : List Nat} {d : Nat} (hd : d ∈ l) (hle : ∀ b ∈ l, d ≤ b) : leastOf l = some d := by
  rcases leastOf_cases l with ⟨rfl, -⟩ | ⟨b, hb, hl, hleast⟩
  · cases hd
  · rw [hl, Nat.le_antisymm (hle b hb) (hleast d hd)]

theorem eligible_iff (f : Field) : eligible f = true ↔ isProtected f.word = false ∧ 1 ≤ f.len := by simp [eligible]

/-- An eligible field's data stands from p on (R30). -/
def eligibleStart (fs : List Field) (p : Nat) : Prop :=
  ∃ f ∈ fs, isProtected f.word = false ∧ 1 ≤ f.len ∧ f.start = p

/-- `dist` gives each field the one distance from `lo` to `hi` at which `place` finds its data start. -/
def measures (fs : List Field) (dist : Field → Nat) (place : Nat → Nat) (lo hi : Nat) : Prop :=
  ∀ f ∈ fs, ∀ d, dist f = d ↔ lo ≤ d ∧ d ≤ hi ∧ place d = f.start

/-- The search of R31 to R33: the least distance is the first at which an eligible data start stands. -/
theorem leastOf_nearest {fs : List Field} {dist : Field → Nat} {place : Nat → Nat} {lo hi d : Nat}
    (hm : measures fs dist place lo hi) (hlo : lo ≤ d) (hhi : d ≤ hi) (hd : eligibleStart fs (place d))
    (hfirst : ∀ e, lo ≤ e → e < d → ¬eligibleStart fs (place e)) :
    leastOf ((fs.filter eligible).map dist) = some d := by
  refine leastOf_eq_some ?_ fun b hb => ?_
  · obtain ⟨f, hf, hp, hl, hs⟩ := hd
    have hdist : dist f = d := (hm f hf d).mpr ⟨hlo, hhi, hs.symm⟩
    exact List.mem_map.mpr ⟨f, List.mem_filter.mpr ⟨hf, (eligible_iff f).mpr ⟨hp, hl⟩⟩, hdist⟩
  · obtain ⟨f, hf, hdist⟩ := List.mem_map.mp hb
    obtain ⟨hf, he⟩ := List.mem_filter.mp hf
    obtain ⟨hp, hl⟩ := (eligible_iff f).mp he
    obtain ⟨hb, -, hplace⟩ := (hm f hf b).mp hdist
    by_contra hlt
    exact hfirst b hb (by omega) ⟨f, hf, hp, hl, hplace.symm⟩

/-- With no eligible field the search finds nothing. -/
theorem no_eligible {fs : List Field} (h : ∀ p, ¬eligibleStart fs p) : fs.filter eligible = [] := by
  refine List.filter_eq_nil_iff.mpr fun f hf he => ?_
  obtain ⟨hp, hl⟩ := (eligible_iff f).mp he
  exact h f.start ⟨f, hf, hp, hl, rfl⟩

/-! ### Distances on the form area -/

theorem mod_of_lt_twice {a n : Nat} (h : a < 2 * n) : a % n = if a < n then a else a - n := by
  split
  next hlt => exact Nat.mod_eq_of_lt hlt
  next hge => rw [Nat.mod_eq_sub_mod (by omega), Nat.mod_eq_of_lt (by omega)]

section
variable {n x p : Nat} (hx : x < n) (hp : p < n)
include hx hp

/-- Ahead, at distance 1 to N (R31). -/
theorem ahead_iff (d : Nat) : (p + n - x - 1) % n + 1 = d ↔ 1 ≤ d ∧ d ≤ n ∧ (x + d) % n = p := by
  rw [mod_of_lt_twice (a := p + n - x - 1) (by omega)]
  constructor
  · rintro rfl
    rw [mod_of_lt_twice (by split <;> omega)]
    repeat' split
    all_goals omega
  · rintro ⟨h1, hn, hd⟩
    rw [mod_of_lt_twice (by omega)] at hd
    split at hd
    all_goals split
    all_goals omega

/-- Behind, at distance 1 to N (R32). -/
theorem behind_iff (d : Nat) : (x + n - p - 1) % n + 1 = d ↔ 1 ≤ d ∧ d ≤ n ∧ (x + n - d) % n = p := by
  rw [mod_of_lt_twice (a := x + n - p - 1) (by omega)]
  constructor
  · rintro rfl
    rw [mod_of_lt_twice (by split <;> omega)]
    repeat' split
    all_goals omega
  · rintro ⟨h1, hn, hd⟩
    rw [mod_of_lt_twice (by omega)] at hd
    split at hd
    all_goals split
    all_goals omega

/-- At or ahead, at distance 0 to N − 1 (R33). -/
theorem atOrAhead_iff (d : Nat) : (p + n - x) % n = d ↔ 0 ≤ d ∧ d ≤ n - 1 ∧ (x + d) % n = p := by
  rw [mod_of_lt_twice (a := p + n - x) (by omega)]
  constructor
  · rintro rfl
    rw [mod_of_lt_twice (by split <;> omega)]
    repeat' split
    all_goals omega
  · rintro ⟨-, hn, hd⟩
    rw [mod_of_lt_twice (by omega)] at hd
    split at hd
    all_goals split
    all_goals omega

end

/-! ### The destinations -/

section
variable {n x : Nat} {fs : List Field} (hx : x < n) (hs : ∀ f ∈ fs, f.start < n)

theorem tabDest_none (n x : Nat) (h : ∀ p, ¬eligibleStart fs p) : tabDest n fs x = 0 := by
  unfold tabDest
  rw [no_eligible h]
  rfl

theorem backSearch_none (n x : Nat) (h : ∀ p, ¬eligibleStart fs p) : backSearch n fs x = 0 := by
  unfold backSearch
  rw [no_eligible h]
  rfl

include hx hs

theorem tabDest_nearest {d : Nat} (h1 : 1 ≤ d) (hn : d ≤ n) (hd : eligibleStart fs ((x + d) % n))
    (hfirst : ∀ e, 1 ≤ e → e < d → ¬eligibleStart fs ((x + e) % n)) : tabDest n fs x = (x + d) % n := by
  unfold tabDest
  rw [leastOf_nearest (place := fun d => (x + d) % n) (hi := n) (fun f hf => ahead_iff hx (hs f hf)) h1 hn hd hfirst]

theorem backSearch_nearest {d : Nat} (h1 : 1 ≤ d) (hn : d ≤ n) (hd : eligibleStart fs ((x + n - d) % n))
    (hfirst : ∀ e, 1 ≤ e → e < d → ¬eligibleStart fs ((x + n - e) % n)) : backSearch n fs x = (x + n - d) % n := by
  unfold backSearch
  rw [leastOf_nearest (place := fun d => (x + n - d) % n) (hi := n) (fun f hf => behind_iff hx (hs f hf)) h1 hn hd hfirst]

end

/-- The cursor is in an eligible field beyond its first cell (R32). -/
def insideEligible (n : Nat) (fs : List Field) (x : Nat) : Prop :=
  ∃ f, fieldAt fs x = some f ∧ isProtected f.word = false ∧ 1 ≤ f.len ∧ 0 < offsetOf n f x ∧ offsetOf n f x < f.len

theorem btbDest_inside {n x : Nat} {fs : List Field} {f : Field} (hf : fieldAt fs x = some f)
    (hp : isProtected f.word = false) (h0 : 0 < offsetOf n f x) (hl : offsetOf n f x < f.len) :
    btbDest n fs x = f.start := by
  have he : eligible f = true := (eligible_iff f).mpr ⟨hp, by omega⟩
  simp [btbDest, hf, he, isDataOf, h0, hl]

theorem btbDest_outside {n x : Nat} {fs : List Field} (h : ¬insideEligible n fs x) :
    btbDest n fs x = backSearch n fs x := by
  unfold btbDest
  split
  next f hf =>
    rw [if_neg]
    intro hc
    simp only [Bool.and_eq_true, isDataOf, decide_eq_true_iff, eligible_iff] at hc
    obtain ⟨⟨⟨hp, hl⟩, hd⟩, h0⟩ := hc
    exact h ⟨f, hf, hp, hl, h0, hd⟩
  next => rfl

/-- The start of the row after the cursor's, the first row after the last (R33). -/
abbrev nextRow (rows cols x : Nat) : Nat := (x / cols + 1) % rows * cols

theorem nlnDest_row {n rows cols x : Nat} {fs : List Field} (h : (∃ f ∈ fs, f.mark = none) ∨ ∀ p, ¬eligibleStart fs p) :
    nlnDest n rows cols fs x = nextRow rows cols x := by
  unfold nlnDest
  dsimp only
  rcases h with ⟨f, hf, hm⟩ | h
  · rw [if_pos (List.any_eq_true.mpr ⟨f, hf, by simp [hm]⟩)]
  · split
    · rfl
    · rw [no_eligible h]; rfl

theorem nlnDest_nearest {n rows cols x d : Nat} {fs : List Field} (hn : n = rows * cols) (h0 : 0 < n)
    (hs : ∀ f ∈ fs, f.start < n) (hm : ∀ f ∈ fs, f.mark ≠ none) (hd : d < n)
    (hstart : eligibleStart fs ((nextRow rows cols x + d) % n))
    (hfirst : ∀ e < d, ¬eligibleStart fs ((nextRow rows cols x + e) % n)) :
    nlnDest n rows cols fs x = (nextRow rows cols x + d) % n := by
  have hrow : nextRow rows cols x < n := by
    have hpos : 0 < rows ∧ 0 < cols := by
      rw [hn] at h0
      exact ⟨Nat.pos_of_mul_pos_right h0, Nat.pos_of_mul_pos_left h0⟩
    rw [hn]
    exact Nat.mul_lt_mul_of_pos_right (Nat.mod_lt _ hpos.1) hpos.2
  have hany : ¬fs.any (fun f => f.mark.isNone) = true := by
    intro h
    obtain ⟨f, hf, h⟩ := List.any_eq_true.mp h
    exact hm f hf (by simpa using h)
  unfold nlnDest
  dsimp only
  rw [if_neg hany, leastOf_nearest (place := fun d => (nextRow rows cols x + d) % n) (hi := n - 1) (d := d)
    (fun f hf => atOrAhead_iff hrow (hs f hf)) (Nat.zero_le d) (by omega) hstart (fun e _ => hfirst e)]

theorem homDest_none {fs : List Field} (h : ∀ p, ¬eligibleStart fs p) : homDest fs = 0 := by
  unfold homDest
  rw [← List.head?_filter, no_eligible h]
  rfl

theorem homDest_first {before after : List Field} {f : Field} (hp : isProtected f.word = false) (hl : 1 ≤ f.len)
    (hb : ∀ g ∈ before, isProtected g.word = true ∨ g.len = 0) : homDest (before ++ f :: after) = f.start := by
  have hbefore : before.filter eligible = [] := by
    refine List.filter_eq_nil_iff.mpr fun g hg he => ?_
    obtain ⟨hgp, hgl⟩ := (eligible_iff g).mp he
    rcases hb g hg with h | h
    · rw [h] at hgp; cases hgp
    · omega
  have he : eligible f = true := (eligible_iff f).mpr ⟨hp, hl⟩
  unfold homDest
  rw [← List.head?_filter, List.filter_append, hbefore, List.filter_cons, if_pos he]
  rfl

/-- Settles O32: each search by the one distance at which it finds a data start. -/
theorem fieldMoveDestinations : Obligations.FieldMoveDestinations := by
  intro n x fs h0 hx hs start
  refine ⟨tabDest_none n x, fun d h1 hn hd hf => tabDest_nearest hx hs h1 hn hd hf, ?_, fun rows cols hn => ?_,
    homDest_none, fun before f after hfs hp hl hb => ?_⟩
  · refine ⟨fun f hf hp h0 hl => btbDest_inside hf hp h0 hl, fun hi hno => ?_, fun d hi h1 hn hd hf => ?_⟩
    · rw [btbDest_outside hi, backSearch_none n x hno]
    · rw [btbDest_outside hi, backSearch_nearest hx hs h1 hn hd hf]
  · exact ⟨nlnDest_row, fun d hm hd hstart hf => nlnDest_nearest hn h0 hs hm hd hstart hf⟩
  · rw [hfs, homDest_first hp hl hb]

/-! ### A token's row -/

/-- The token taken at its verdict has been begun. -/
def tokenBegun (s : State) : State := { s with composer.begun := true }

/-- A token's row begins the token that its verdict took (log 6). -/
theorem tokenRow_runs {p : Token → Bool} {f : State → State} {tok : Token} {s x : State} (ht : tokenTaken tok s)
    (hp : p tok = true) (hx : f (tokenBegun s) = x) (hj : claimsJoined x) :
    ∃ t, tokenRow p f s = .next t ∧ besidesStatus t = besidesStatus x := by
  obtain ⟨hw, hb, he⟩ := ht
  subst hx
  refine event_effect (tokenWaits p s) (fun s => f { s with composer.begun := true }) s ?_ hj
  rcases he with he | he <;> simp [tokenWaits, hw, hb, he, hp]

/-- The rows of the field-moving keys (R136). -/
theorem moverRow {c : Instr} {code : Byte}
    (h : (c = .hom ∧ code = 0x84#8) ∨ (c = .tab ∧ code = 0x85#8) ∨ (c = .btb ∧ code = 0x86#8) ∨
      (c = .nln ∧ code = 0x87#8)) (s : State) : exec c s = tokenRow (isKey code) (beginMove code) s := by
  rcases h with ⟨rfl, rfl⟩ | ⟨rfl, rfl⟩ | ⟨rfl, rfl⟩ | ⟨rfl, rfl⟩ <;> rfl

/-- A key's work ends with no range held or posted, whatever transfer is in hand (R124). -/
theorem endWork_key_free {s : State} {code : Byte} (h1 : s.heldRange = .empty) (h2 : s.posting = none)
    (hw : s.composer.work = .token (.key code)) :
    endWork s = { s with composer := idleWith s.composer.cursor s.composer.insertMode s.composer } := by
  have h : endWork s = idleComposer (releaseRange s) := by simp [endWork, hw, freeTokenSlot]
  rw [h, releaseRange_free s h1 h2]
  rfl

theorem beginMove_moves {code : Byte} {s : State} {dest : Nat}
    (hd : moverDest s code s.workingFields s.composer.cursor = dest)
    (h : exitDue s.formN s.workingFields s.composer.cursor dest = false) : beginMove code s = moveCursor dest s := by
  unfold beginMove
  dsimp only
  rw [hd, h]
  rfl

/-- Settles O31: the row of a field-moving key, its move the end of its work. -/
theorem fieldMovesWithoutExit : Obligations.FieldMovesWithoutExit := by
  intro s code c hj hfree ht hc fs dest hdue
  obtain ⟨hr, hp, -⟩ := hfree
  have hmove := beginMove_moves (s := tokenBegun s) rfl hdue
  have hend := endWork_key_free (s := setCursor dest (tokenBegun s)) (code := code) hr hp ht.1
  rw [moverRow hc s]
  exact tokenRow_runs (p := isKey code) ht (by simp [isKey]) (hmove.trans hend) hj

/-! ### The tokens that take hold -/

/-- The row c begins the token tok with a hold: a token that works on a field, or a field-moving or send key with exit
processing due (R127, R133, R136, R138, R139, R142 to R144, R150). -/
def beginsWithHold (c : Instr) (tok : Token) (s : State) : Prop :=
  (c = .dataCharacter ∧ ∃ ch : Byte, tok = .key ch ∧ 0x20 ≤ ch.toNat ∧ ch.toNat ≤ 0x7E) ∨
  (c = .del ∧ tok = .key 0x89#8) ∨ (c = .eef ∧ tok = .key 0x8B#8) ∨ (c = .fex ∧ tok = .key 0x8D#8) ∨
  (c = .fmn ∧ tok = .key 0x8E#8) ∨ (c = .scanToken ∧ ∃ i, tok = .scan i) ∨
  (∃ code, tok = .key code ∧
    ((c = .hom ∧ code = 0x84#8) ∨ (c = .tab ∧ code = 0x85#8) ∨ (c = .btb ∧ code = 0x86#8) ∨ (c = .nln ∧ code = 0x87#8)) ∧
    exitDue s.formN s.workingFields s.composer.cursor (moverDest s code s.workingFields s.composer.cursor) = true) ∨
  (((c = .ent ∧ tok = .key 0xC0#8) ∨ (c = .f1ToF12 ∧ ∃ ch : Byte, tok = .key ch ∧ 0xC1 ≤ ch.toNat ∧ ch.toNat ≤ 0xCC)) ∧
    ∃ f, s.lookup s.composer.cursor = some f ∧ sendExitDue s.formN f s.composer.cursor = true)

/-- Such a row begins its token as `beginHold` does. -/
theorem holdRow {s : State} {c : Instr} {tok : Token} (h : beginsWithHold c tok s) :
    ∃ p g, exec c s = tokenRow p g s ∧ p tok = true ∧
      g (tokenBegun s) = beginHold (tokenBegun s) := by
  rcases h with ⟨rfl, ch, rfl, h1, h2⟩ | ⟨rfl, rfl⟩ | ⟨rfl, rfl⟩ | ⟨rfl, rfl⟩ | ⟨rfl, rfl⟩ | ⟨rfl, i, rfl⟩ |
    ⟨code, rfl, hc, hdue⟩ | ⟨hc, f, hf, hdue⟩
  case inl => exact ⟨_, _, rfl, by simp [isDataCode, h1, h2], rfl⟩
  case inr.inr.inr.inr.inr.inr.inl =>
    exact ⟨_, _, moverRow hc s, by simp [isKey], if_pos hdue⟩
  case inr.inr.inr.inr.inr.inr.inr =>
    have hsend : beginSend (tokenBegun s) = beginHold (tokenBegun s) := by
      have hf' : (tokenBegun s).lookup s.composer.cursor = some f := hf
      unfold beginSend beginHold
      rw [show (tokenBegun s).composer.cursor = s.composer.cursor from rfl, hf']
      exact congrArg resume (if_pos hdue)
    rcases hc with ⟨rfl, rfl⟩ | ⟨rfl, ch, rfl, h1, h2⟩
    · exact ⟨_, _, rfl, rfl, hsend⟩
    · exact ⟨_, _, rfl, by simp [h1, h2], hsend⟩
  all_goals exact ⟨_, _, rfl, rfl, rfl⟩

theorem heldRangeOf_eq (table : List Entry) (f : Field) :
    heldRangeOf table f =
      match f.mark with
      | none => .whole
      | some m => if 2 ≤ table.length then .span m f.len else .whole := by
  unfold heldRangeOf
  cases f.mark with
  | none => rfl
  | some m =>
    dsimp only
    by_cases h : 2 ≤ table.length
    · rw [if_pos h, if_neg (by omega)]
    · rw [if_neg h, if_pos (by omega)]

theorem beginHold_field {s : State} {u : SetupBlock} {f : Field} (hu : s.setup.active = some u)
    (hf : s.lookup s.composer.cursor = some f) :
    beginHold s =
      awaiting (heldRangeOf s.map.table f) (.holdFirst f.mark f.len (heldRangeOf s.map.table f == .whole)) s := by
  unfold beginHold takeHold
  rw [hf]
  exact carryOn_post 15 _ _ hu

theorem slots_besides {s t : State} (h : besidesStatus t = besidesStatus s) : t.slots = s.slots := by
  have e := congrArg State.slots h; exact e

/-- A token's slot, if it has one, FREE, and no other slot's state changed (R103). -/
theorem slotState_freeTokenSlot (tok : Token) (s : State) (i : Fin 4) :
    (getSlot (freeTokenSlot tok s).slots i).state =
      if tok = .scan i then .free else (getSlot s.slots i).state := by
  cases tok with
  | key c => rfl
  | scan j =>
    show (getSlot (setSlot s.slots j _) i).state = _
    rw [getSlot_setSlot]
    by_cases h : i = j
    · rw [if_pos h, if_pos (by rw [h])]
    · rw [if_neg h, if_neg (by simpa using Ne.symm h)]

/-- A token refused with no range held or posted, under OPEN (R115). -/
theorem refuse_free {s : State} {tok : Token} (c : ErrorCode) (h1 : s.heldRange = .empty) (h2 : s.posting = none)
    (hw : s.composer.work = .token tok) (hl : s.lock = .opened) :
    refuse c s =
      { s with
        lock := .error c, tone := true, timer.toneCompare := some (s.timer.counter + 1000#16),
        slots := (freeTokenSlot tok s).slots,
        composer := idleWith s.composer.cursor s.composer.insertMode s.composer } := by
  have hend (y : State) (hy1 : y.heldRange = .empty) (hy2 : y.posting = none) (hyw : y.composer.work = .token tok) :
      endWork y =
        { y with
          slots := (freeTokenSlot tok y).slots, composer := idleWith y.composer.cursor y.composer.insertMode y.composer } := by
    have h : endWork y = idleComposer (releaseRange (freeTokenSlot tok y)) := by simp [endWork, hyw]
    cases tok with
    | key code => rw [h, releaseRange_free _ (by exact hy1) (by exact hy2)]; rfl
    | scan i => rw [h, releaseRange_free _ (by exact hy1) (by exact hy2)]; rfl
  unfold refuse
  rw [raiseError_eq, if_pos hl, hend _ (by exact h1) (by exact h2) (by exact hw)]
  cases tok <;> rfl

theorem beginHold_refused {s : State} {tok : Token} (h : s.lookup s.composer.cursor = none) (h1 : s.heldRange = .empty)
    (h2 : s.posting = none) (hw : s.composer.work = .token tok) (hl : s.lock = .opened) :
    beginHold s = refuse .formatLimit s := by
  unfold beginHold takeHold
  rw [h]
  exact carryOn_nil 16 (by rw [refuse_free .formatLimit h1 h2 hw hl]; rfl)

/-- Settles O34: each row begins with the hold, which the lookup posts or refuses. -/
theorem tokensTakeHold : Obligations.TokensTakeHold := by
  intro s u c tok hj hu ht hc
  obtain ⟨p, g, hx, hp, hg⟩ := holdRow hc
  rw [hx]
  refine ⟨fun f hf => ?_, fun hnone hfree hl => ?_⟩
  · obtain ⟨t, ht, hb⟩ := tokenRow_runs ht hp (hg.trans (beginHold_field (s := tokenBegun s) hu hf)) hj
    refine ⟨t, ht, hb.trans ?_⟩
    rw [heldRangeOf_eq]
    rfl
  · obtain ⟨hr, hpost, -⟩ := hfree
    have hrefused := (beginHold_refused (s := tokenBegun s) hnone hr hpost ht.1 hl).trans
      (refuse_free .formatLimit (s := tokenBegun s) hr hpost ht.1 hl)
    obtain ⟨t, ht', hb⟩ := tokenRow_runs ht hp (hg.trans hrefused) hj
    have hslots : t.slots = (freeTokenSlot tok (tokenBegun s)).slots := (slots_besides hb).trans rfl
    refine ⟨t, ht', ?_, fun i => ?_⟩
    · rw [hslots, hb]; rfl
    · rw [hslots]; exact slotState_freeTokenSlot tok (tokenBegun s) i

end Sys2Proof.Machine
end

section
/-! A token at its work on the held field, no transfer of the processor in hand: what each operation that ends it or goes on
with a series of transfers leaves (R124, R131, R141). -/

namespace Sys2Proof.Machine

/-! ### The first transfer of a series -/

/-- The reads of a field that is not empty begin at its data start. -/
theorem carryOn_readOps (m n : Nat) (f : Field) (rest : List Op) {u : SetupBlock} {s : State} (hu : s.setup.active = some u)
    (hl : 0 < f.len) :
    carryOn (m + 1) (setTodo (readOps n f ++ rest) s) =
      claiming (cellAddr u (posAt n f 0)) .read (cellReads n f ++ rest) s := by
  have hc : ∃ ops, cellReads n f ++ rest = .read (posAt n f 0) :: ops := by
    obtain ⟨l, hl⟩ : ∃ l, f.len = l + 1 := ⟨f.len - 1, by omega⟩
    exact ⟨_, by rw [cellReads, hl, List.range_succ_eq_map]; rfl⟩
  obtain ⟨ops, hc⟩ := hc
  rw [readOps_eq, hc]
  exact carryOn_read m _ ops hu

/-- The writes of changed cells begin at the first that has changed (R39). -/
theorem carryOn_cellWrites (m n : Nat) (f : Field) (rest : List Op) {old new : List Word} {j : Nat} {js : List Nat}
    {u : SetupBlock} {s : State} (hu : s.setup.active = some u) (hj : changedOffsets old new = j :: js) :
    carryOn (m + 1) (setTodo (cellWrites n f old new ++ rest) s) =
      claiming (cellAddr u (posAt n f j)) (.write .word (new.getD j 0#16)) (cellWrites n f old new ++ rest) s := by
  have hc : cellWrites n f old new ++ rest =
      .write (posAt n f j) (new.getD j 0#16) :: (js.map (fun j => Op.write (posAt n f j) (new.getD j 0#16)) ++ rest) := by
    rw [cellWrites, hj]; rfl
  rw [hc]
  exact carryOn_write m _ _ _ hu

theorem cellWrites_nil {n : Nat} {f : Field} {old new : List Word} (h : changedOffsets old new = []) :
    cellWrites n f old new = [] := by rw [cellWrites, h]; rfl

/-! ### The end of a key's work -/

/-- A key's work ends with the cursor moved (R126). -/
theorem carryOn_keyMoved {u : SetupBlock} {code : Byte} {s : State} (hu : s.setup.active = some u) (h1 : s.inHand = none)
    (h2 : s.processorInFlight = false) (hw : s.composer.work = .token (.key code)) (m d : Nat) :
    carryOn m (endWork (setCursor d s)) = workEnded (d % formSize u) s := by
  have hn : s.formN = formSize u := by simp [State.formN, hu]
  rw [endWork_key (setCursor d s) code h1 h2 hw, carryOn_workEnded, ← hn]
  rfl

/-! ### A token at its work -/

/-- The cursor is on a data cell of the field, and the field is not protected (R133). -/
abbrev enterableAt (n : Nat) (f : Field) (x : Nat) : Prop := isDataOf n f x = true ∧ isProtected f.word = false

theorem offset_lt_len {n x : Nat} {f : Field} (h : enterableAt n f x) : offsetOf n f x < f.len := by
  simpa [isDataOf] using h.1

/-- The composer works on a token whose held field is `f`, with no transfer of the processor in hand or in flight. -/
structure AtWork (u : SetupBlock) (f : Field) (tok : Token) (s : State) : Prop where
  active : s.setup.active = some u
  hand : s.inHand = none
  flight : s.processorInFlight = false
  work : s.composer.work = .token tok
  field : s.composer.field = some f

section
variable {u : SetupBlock} {f : Field} {tok : Token} {s : State} (h : AtWork u f tok s)
include h

theorem AtWork.formN_eq : s.formN = formSize u := by simp [State.formN, h.active]

theorem AtWork.heldField_eq : heldField s = f := by simp [heldField, h.field]

theorem AtWork.withTodo (ops : List Op) : AtWork u f tok (setTodo ops s) :=
  ⟨h.active, h.hand, h.flight, h.work, h.field⟩

theorem AtWork.modified (b : Bool) : AtWork u f tok { s with map.modified := b } :=
  ⟨h.active, h.hand, h.flight, h.work, h.field⟩

theorem AtWork.moved (x : Nat) : AtWork u f tok (setCursor x s) :=
  ⟨h.active, h.hand, h.flight, h.work, h.field⟩

/-- Exit processing reads the field's cells (R141). -/
theorem AtWork.carryOn_startExit (m : Nat) (nullFrom : Option Nat) (minus : Bool) (next : ExitNext) (hl : 0 < f.len) :
    carryOn (m + 1) (startExit nullFrom minus next s) =
      claiming (cellAddr u (posAt (formSize u) f 0)) .read
        (cellReads (formSize u) f ++ [.call (.exitRead nullFrom minus next)]) { s with composer.buffer := [] } := by
  unfold startExit
  rw [h.formN_eq, h.heldField_eq]
  exact carryOn_readOps m _ f _ h.active hl

theorem AtWork.notEnterable_iff : notEnterable s f = true ↔ ¬enterableAt (formSize u) f s.composer.cursor := by
  unfold notEnterable enterableAt
  rw [h.formN_eq]
  cases isDataOf (formSize u) f s.composer.cursor <;> cases isProtected f.word <;> simp

end

section
variable {u : SetupBlock} {f : Field} {code : Byte} {s : State} (h : AtWork u f (.key code) s)
include h

theorem AtWork.carryOn_refuse (m : Nat) (c : ErrorCode) : carryOn m (refuse c s) = refusedAt s.composer.cursor c s :=
  carryOn_refuse_key m c s code h.hand h.flight h.work

theorem AtWork.carryOn_moved (m d : Nat) : carryOn m (endWork (setCursor d s)) = workEnded (d % formSize u) s :=
  carryOn_keyMoved h.active h.hand h.flight h.work m d

theorem AtWork.carryOn_ended (m : Nat) : carryOn m (endWork s) = workEnded s.composer.cursor s := by
  rw [endWork_key _ code h.hand h.flight h.work, carryOn_workEnded]

/-- A refusal at the data start (R41, R141, R152). -/
theorem AtWork.carryOn_refuseAtStart (m : Nat) (c : ErrorCode) :
    carryOn m (endWork (setCursor f.start (raiseError c s))) = refusedAt (f.start % formSize u) c s := by
  rw [refuse_at c s f.start code h.hand h.flight h.work, h.formN_eq, carryOn_refusedAt]

end

/-- A SCAN token's work ends with the cursor moved and its slot FREE (R103). -/
theorem AtWork.carryOn_scanMoved {u : SetupBlock} {f : Field} {i : Fin 4} {s : State} (h : AtWork u f (.scan i) s)
    (m d : Nat) : carryOn m (endWork (setCursor d s)) = slotFreed i (workEnded (d % formSize u) s) := by
  rw [endWork_scan (setCursor d s) i h.hand h.flight h.work, carryOn_nil m rfl, ← h.formN_eq]
  rfl

end Sys2Proof.Machine
end

section
/-! A key once its hold is made (R35, R36, R127, R133 to R143, R150). -/

namespace Sys2Proof.Machine

/-! ### Each key on the held field -/

theorem heldWork_key {s : State} {c : Byte} (h : s.composer.work = .token (.key c)) :
    heldWork s =
      if isDataCode c then heldCharacter c s
      else if c = 0x89#8 then heldDelete s
      else if c = 0x8B#8 then heldErase s
      else if c = 0x8D#8 then heldFieldExit s
      else if c = 0x8E#8 then heldFieldMinus s
      else if isEnterCode c then heldSend s
      else heldMove c s := by
  unfold heldWork
  rw [h]

theorem heldWork_enter {s : State} {c : Byte} (h : s.composer.work = .token (.key c)) (hc : isEnterCode c = true) :
    heldWork s = heldSend s := by
  have hr : 0xC0 ≤ c.toNat ∧ c.toNat ≤ 0xCC := by simpa [isEnterCode] using hc
  have hne (b : Byte) (hb : b.toNat < 0xC0) : c ≠ b := by rintro rfl; omega
  have hd : ¬isDataCode c = true := by
    simp only [isDataCode, Bool.and_eq_true, decide_eq_true_iff]; omega
  rw [heldWork_key h, if_neg hd, if_neg (hne _ (by decide)), if_neg (hne _ (by decide)), if_neg (hne _ (by decide)),
    if_neg (hne _ (by decide)), if_pos hc]

section
variable {u : SetupBlock} {f : Field} {code : Byte} {s : State} (h : AtWork u f (.key code) s)
include h

theorem AtWork.heldCharacter_eq (c : Byte) :
    heldCharacter c s =
      if notEnterable s f then refuse .isProtected s
      else if !allows (entryType f.word) (foldUpper (isUppercase f.word) c) then refuse .wrongCharacter s
      else if s.composer.insertMode then
        setTodo [.read (posAt (formSize u) f (f.len - 1)), .call (.insertTested (foldUpper (isUppercase f.word) c))]
          (clearBuffer s)
      else
        setTodo [.write s.composer.cursor (dataCell (foldUpper (isUppercase f.word) c)), .call .setModified,
          .call .charWritten] s := by
  unfold heldCharacter
  dsimp only
  rw [h.heldField_eq, h.formN_eq]

theorem AtWork.heldDelete_eq :
    heldDelete s =
      if notEnterable s f then refuse .isProtected s
      else
        setTodo
          (deleteMoves (formSize u) f (offsetOf (formSize u) f s.composer.cursor) ++ [.call .setModified, .call .finish])
          s := by
  unfold heldDelete
  dsimp only
  rw [h.heldField_eq, h.formN_eq]

theorem AtWork.heldErase_eq :
    heldErase s =
      if notEnterable s f then refuse .isProtected s
      else
        setTodo
          ((fieldCells (formSize u) f (offsetOf (formSize u) f s.composer.cursor)
              (f.len - offsetOf (formSize u) f s.composer.cursor)).map Op.eraseCell ++ [.call .setModified, .call .finish])
          s := by
  unfold heldErase
  dsimp only
  rw [h.heldField_eq, h.formN_eq]

theorem AtWork.heldFieldExit_eq :
    heldFieldExit s =
      if notEnterable s f then refuse .isProtected s
      else startExit (some (offsetOf (formSize u) f s.composer.cursor)) false (.field s.composer.cursor) s := by
  unfold heldFieldExit
  dsimp only
  rw [h.heldField_eq, h.formN_eq]

theorem AtWork.heldFieldMinus_eq :
    heldFieldMinus s =
      if notEnterable s f then refuse .isProtected s
      else if entryType f.word != .numeric then refuse .wrongCharacter s
      else startExit (some (offsetOf (formSize u) f s.composer.cursor)) true (.field s.composer.cursor) s := by
  unfold heldFieldMinus
  dsimp only
  rw [h.heldField_eq, h.formN_eq]

/-- On the mark or in a protected field every key that changes cells is refused. -/
theorem AtWork.heldWork_notEnterable (hc : isDataCode code = true ∨ code ∈ [0x89#8, 0x8B#8, 0x8D#8, 0x8E#8])
    (he : ¬enterableAt (formSize u) f s.composer.cursor) : heldWork s = refuse .isProtected s := by
  have hn : notEnterable s f = true := h.notEnterable_iff.mpr he
  have dispatch := heldWork_key h.work
  rcases hc with hc | hc
  · rw [dispatch, if_pos hc, h.heldCharacter_eq, if_pos hn]
  · simp only [List.mem_cons, List.not_mem_nil, or_false] at hc
    rcases hc with rfl | rfl | rfl | rfl
    · exact dispatch.trans (h.heldDelete_eq.trans (if_pos hn))
    · exact dispatch.trans (h.heldErase_eq.trans (if_pos hn))
    · exact dispatch.trans (h.heldFieldExit_eq.trans (if_pos hn))
    · exact dispatch.trans (h.heldFieldMinus_eq.trans (if_pos hn))

/-- DEL moves the cells above the cursor's down one and nulls the last; at the last cell it only nulls (R36). -/
theorem AtWork.carryOn_heldDelete (m : Nat) (he : enterableAt (formSize u) f s.composer.cursor) :
    let n := formSize u
    let off := offsetOf n f s.composer.cursor
    let moves := (List.range (f.len - 1 - off)).flatMap
      (fun i => [Op.read (posAt n f (off + 1 + i)), Op.writeBack (posAt n f (off + i))])
    let rest := [Op.write (posAt n f (f.len - 1)) 0x0000#16, .call .setModified, .call .finish]
    (off + 1 < f.len →
      carryOn (m + 1) (heldDelete s) = claiming (cellAddr u (posAt n f (off + 1))) .read (moves ++ rest) s) ∧
    (off + 1 = f.len →
      carryOn (m + 1) (heldDelete s) = claiming (cellAddr u (posAt n f off)) (.write .word 0x0000#16) rest s) := by
  intro n off moves rest
  have hops : heldDelete s = setTodo (moves ++ rest) s := by
    rw [h.heldDelete_eq, if_neg (fun e => h.notEnterable_iff.mp e he), deleteMoves, List.append_assoc]
    rfl
  refine ⟨fun hl => ?_, fun hl => ?_⟩
  · have hm : ∃ ops, moves ++ rest = .read (posAt n f (off + 1)) :: ops := by
      obtain ⟨l, hl⟩ : ∃ l, f.len - 1 - off = l + 1 := ⟨f.len - 1 - off - 1, by omega⟩
      exact ⟨_, by simp only [moves]; rw [hl, List.range_succ_eq_map]; rfl⟩
    obtain ⟨ops, hm⟩ := hm
    rw [hops, hm]
    exact carryOn_read m _ ops h.active
  · have hm : moves = [] := by
      simp only [moves]
      rw [show f.len - 1 - off = 0 by omega]
      rfl
    have ho : off = f.len - 1 := by omega
    rw [hops, hm, ho]
    exact carryOn_write m _ _ _ h.active

/-- EEF treats the cells from the cursor's on, ascending (R139). -/
theorem AtWork.carryOn_heldErase (m : Nat) (he : enterableAt (formSize u) f s.composer.cursor) :
    let n := formSize u
    let off := offsetOf n f s.composer.cursor
    carryOn (m + 1) (heldErase s) =
      claiming (cellAddr u (posAt n f off)) .read
        ((List.range (f.len - off)).map (fun i => Op.eraseCell (posAt n f (off + i))) ++
          [.call .setModified, .call .finish]) s := by
  intro n off
  have hlt : off < f.len := offset_lt_len he
  have hcells : (fieldCells n f off (f.len - off)).map Op.eraseCell =
      (List.range (f.len - off)).map (fun i => Op.eraseCell (posAt n f (off + i))) := by
    rw [fieldCells, List.map_map]; rfl
  have hm : ∃ ops, (List.range (f.len - off)).map (fun i => Op.eraseCell (posAt n f (off + i))) ++
      [Op.call .setModified, .call .finish] = .eraseCell (posAt n f off) :: ops := by
    obtain ⟨l, hl⟩ : ∃ l, f.len - off = l + 1 := ⟨f.len - off - 1, by omega⟩
    exact ⟨_, by rw [hl, List.range_succ_eq_map]; rfl⟩
  obtain ⟨ops, hm⟩ := hm
  rw [h.heldErase_eq, if_neg (fun e => h.notEnterable_iff.mp e he), hcells, hm]
  exact carryOn_eraseCell m _ ops h.active

end

/-! ### The moves and the sends -/

/-- Exit processing of the field being left is due (R136, R150), the field that of the cursor. -/
theorem exitDue_iff {n x dest : Nat} {fs : List Field} {f : Field} (hf : fieldAt fs x = some f) :
    exitDue n fs x dest = true ↔
      f.mark ≠ none ∧ enterableAt n f x ∧ isModified f.word = true ∧ isDataOf n f dest = false := by
  unfold exitDue
  rw [hf]
  simp only [Bool.and_eq_true, Bool.not_eq_true', Option.isSome_iff_ne_none]
  tauto

theorem sendExitDue_iff {n x : Nat} {f : Field} :
    sendExitDue n f x = true ↔ f.mark ≠ none ∧ enterableAt n f x ∧ isModified f.word = true := by
  unfold sendExitDue
  simp only [Bool.and_eq_true, Bool.not_eq_true', Option.isSome_iff_ne_none]
  tauto

/-- A field found by a lookup is the field of the live table there (R23). -/
theorem fieldAt_of_lookup {s : State} {x : Nat} {f : Field} (h : s.lookup x = some f) : fieldAt s.liveFields x = some f := by
  unfold State.lookup at h
  split at h
  · exact h
  all_goals cases h

section
variable {u : SetupBlock} {f : Field} {code : Byte} {s : State} (h : AtWork u f (.key code) s)
include h

theorem AtWork.carryOn_heldMove (m dest : Nat) (hf : fieldAt s.workingFields s.composer.cursor = some f)
    (hd : moverDest s code s.workingFields s.composer.cursor = dest) :
    let n := formSize u
    let due := f.mark ≠ none ∧ enterableAt n f s.composer.cursor ∧ isModified f.word = true ∧ isDataOf n f dest = false
    (due →
      carryOn (m + 1) (heldMove code s) =
        claiming (cellAddr u (posAt n f 0)) .read (cellReads n f ++ [.call (.exitRead none false (.move dest))])
          { s with composer.buffer := [] }) ∧
    (¬due → carryOn (m + 1) (heldMove code s) = workEnded (dest % n) s) := by
  intro n due
  have hiff : exitDue s.formN s.workingFields s.composer.cursor dest = true ↔ due := by
    rw [h.formN_eq]; exact exitDue_iff hf
  unfold heldMove
  dsimp only
  rw [hd]
  refine ⟨fun hdue => ?_, fun hdue => ?_⟩
  · obtain ⟨-, he, -, -⟩ := id hdue
    rw [if_pos (hiff.mpr hdue)]
    exact h.carryOn_startExit m none false _ (by have := offset_lt_len he; omega)
  · rw [if_neg (fun e => hdue (hiff.mp e))]
    exact h.carryOn_moved (m + 1) dest

theorem AtWork.carryOn_heldSend (m : Nat) :
    let n := formSize u
    let due := f.mark ≠ none ∧ enterableAt n f s.composer.cursor ∧ isModified f.word = true
    (due →
      carryOn (m + 1) (heldSend s) =
        claiming (cellAddr u (posAt n f 0)) .read (cellReads n f ++ [.call (.exitRead none false .send)])
          { s with composer.buffer := [] }) ∧
    (¬due → carryOn (m + 1) (heldSend s) = walkBegun s) := by
  intro n due
  unfold heldSend
  rw [h.heldField_eq, h.formN_eq]
  refine ⟨fun hdue => ?_, fun hdue => ?_⟩
  · obtain ⟨-, he, -⟩ := id hdue
    rw [if_pos (sendExitDue_iff.mpr hdue)]
    exact h.carryOn_startExit m none false _ (by have := offset_lt_len he; omega)
  · rw [if_neg (fun e => hdue (sendExitDue_iff.mp e))]
    exact carryOn_walkBegun m code h.active h.hand h.flight h.work

end

/-! ### The statement -/

/-- The state in which a held token's own work begins (R127). -/
def heldState (r : HeldRange) (f : Field) (s : State) : State := setTodo [] (holdOn f (rangeTaken r s))

section
variable {u : SetupBlock} {r : HeldRange} {k : Cont} {f : Field} {tok : Token} {s : State} (h : postingDue u r k s)
include h

theorem heldState_atWork (hw : s.composer.work = .token tok) : AtWork u f tok (heldState r f s) := by
  obtain ⟨-, hu, hi, hf, -, -⟩ := h
  exact ⟨hu, hi, hf, hw, rfl⟩

/-- The posting is taken, the hold is made, and the token's own work runs in the same event (R127). -/
theorem hold_runs (hm : holdMadeBy k f s) {x : State} (hx : carryOn 15 (heldWork (heldState r f s)) = x) :
    ∃ t, exec .heldRangePosting s = .next t ∧ besidesStatus t = besidesStatus x := by
  obtain ⟨t, ht, hb⟩ := posting_runs h
  refine ⟨t, ht, hb.trans (congrArg besidesStatus ?_)⟩
  rw [holdMadeBy_runs hm]
  exact hx

end

theorem refusedAt_heldState (x : Nat) (c : ErrorCode) (r : HeldRange) (f : Field) (s : State) :
    refusedAt x c (heldState r f s) = refusedAt x c s := refusedAt_congr x c _ _ rfl rfl

/-- Settles O36: the hold is made, and each key's own operation runs on the held field. -/
theorem heldKeysBegin : Obligations.HeldKeysBegin := by
  intro s u r k f code h hm hw n x off enterable held result exits ch
  have at' : AtWork u f (.key code) (heldState r f s) := heldState_atWork h hw
  have go {y z : State} (hy : heldWork (heldState r f s) = y) (hz : carryOn 15 y = z) : result z :=
    hold_runs h hm (by rw [hy]; exact hz)
  have dispatch := heldWork_key at'.work
  have hopen (he : enterable) : ¬notEnterable (heldState r f s) f = true := fun e => at'.notEnterable_iff.mp e he
  refine ⟨fun hc he => ?_, fun hc he => ?_, fun hc he => ?_, fun hc he => ?_, fun hc he => ?_, fun hc he => ?_,
    fun dest hd => ?_, fun hc => ?_⟩
  · refine go (at'.heldWork_notEnterable hc he) ?_
    exact (at'.carryOn_refuse 15 _).trans (refusedAt_heldState x _ r f s)
  · have hmode : (heldState r f s).composer.insertMode = s.composer.insertMode := rfl
    rw [if_pos hc, at'.heldCharacter_eq, if_neg (hopen he), hmode] at dispatch
    refine ⟨fun ha => go dispatch ?_, fun ha hi => go dispatch ?_, fun ha hi => go dispatch ?_⟩
    · rw [if_pos (by simpa [ch] using ha)]
      exact (at'.carryOn_refuse 15 _).trans (refusedAt_heldState x _ r f s)
    · rw [if_neg (by simpa [ch] using ha), if_neg (by simp [hi])]
      exact carryOn_write 14 _ _ _ at'.active
    · rw [if_neg (by simpa [ch] using ha), if_pos hi]
      exact carryOn_read 14 _ _ at'.active
  · subst hc
    obtain ⟨hmid, hlast⟩ := at'.carryOn_heldDelete 14 he
    exact ⟨fun hl => go dispatch (hmid hl), fun hl => go dispatch (hlast hl)⟩
  · subst hc
    exact go dispatch (at'.carryOn_heldErase 14 he)
  · subst hc
    have hlt : off < f.len := offset_lt_len he
    exact go (dispatch.trans (at'.heldFieldExit_eq.trans (if_neg (hopen he))))
      (at'.carryOn_startExit 14 (some off) false (.field x) (by omega))
  · subst hc
    have hlt : off < f.len := offset_lt_len he
    have hminus := dispatch.trans (at'.heldFieldMinus_eq.trans (if_neg (hopen he)))
    refine ⟨fun ht => go hminus ?_, fun ht => go hminus ?_⟩
    · rw [if_pos (bne_iff_ne.mpr ht)]
      exact (at'.carryOn_refuse 15 _).trans (refusedAt_heldState x _ r f s)
    · rw [if_neg (by simp [ht])]
      exact at'.carryOn_startExit 14 (some off) true (.field x) (by omega)
  · have hmove : heldWork (heldState r f s) = heldMove code (heldState r f s) := by
      rcases hd with ⟨rfl, -⟩ | ⟨rfl, -⟩ | ⟨rfl, -⟩ | ⟨rfl, -⟩ <;> exact dispatch
    have hdest : moverDest (heldState r f s) code (heldState r f s).workingFields x = dest := by
      have hw : (heldState r f s).workingFields = s.liveFields := rfl
      have hR : (heldState r f s).formR = setupRows u := by simp [State.formR, at'.active]
      have hC : (heldState r f s).formC = setupCols u := by simp [State.formC, at'.active]
      unfold moverDest
      rw [hw, at'.formN_eq, hR, hC]
      rcases hd with ⟨rfl, rfl⟩ | ⟨rfl, rfl⟩ | ⟨rfl, rfl⟩ | ⟨rfl, rfl⟩ <;> rfl
    obtain ⟨hdue, hno⟩ := at'.carryOn_heldMove 14 dest (fieldAt_of_lookup hm.1) hdest
    exact ⟨fun hd => go hmove (hdue hd), fun hd => go hmove (hno hd)⟩
  · obtain ⟨hdue, hno⟩ := at'.carryOn_heldSend 14
    refine ⟨fun hd => go (heldWork_enter at'.work hc) (hdue hd), fun hd => go (heldWork_enter at'.work hc) ?_⟩
    exact (hno hd).trans (walkBegun_setTodo _)

end Sys2Proof.Machine
end

section
/-! A transfer of a token's series completes: the token at its work after it, and MODIFIED set at the end of the series
(R130, R131). -/

namespace Sys2Proof.Machine

/-- The last read of a series leaves the token at its work. -/
theorem readTaken_atWork {u : SetupBlock} {a : WordAddr} {k : Cont} {f : Field} {tok : Token} {s : State}
    (h : lastReadDue u a k s) (hw : s.composer.work = .token tok) (hf : s.composer.field = some f) :
    AtWork u f tok (readTaken a s) := by
  obtain ⟨-, hu, hi, -⟩ := h
  exact ⟨hu, hi, processorInFlight_none rfl, hw, hf⟩

/-- So does its last write. -/
theorem wordWritten_atWork {u : SetupBlock} {p : Nat} {w : Word} {rest : List Op} {f : Field} {tok : Token} {s : State}
    (h : lastWriteDue u p w rest s) (hw : s.composer.work = .token tok) (hf : s.composer.field = some f) :
    AtWork u f tok (wordWritten u p w s) := by
  obtain ⟨-, -, hu, hi, -⟩ := h
  exact ⟨hu, hi, processorInFlight_none rfl, hw, hf⟩

/-- The words read, once the last has come. -/
theorem wordsRead_readTaken (ops : List Op) (a : WordAddr) (s : State) :
    wordsRead (setTodo ops (readTaken a s)) = wordsWith a s := List.reverse_cons

/-- A continuation alone in the work runs. -/
theorem carryOn_cont (m : Nat) (k : Cont) (s : State) :
    carryOn (m + 1) (setTodo [.call k] s) = carryOn m (runCont k (setTodo [] s)) :=
  carryOn_call m (s := setTodo [.call k] s) rfl

/-- MODIFIED set, the cursor of a SCAN token moves and the token ends (R131, R145). -/
theorem AtWork.scan_modifiedThen {u : SetupBlock} {f : Field} {i : Fin 4} {s : State} (h : AtWork u f (.scan i) s)
    (m d : Nat) :
    carryOn (m + 1) (markModified (setTodo [.call (.moveTo d)] s)) =
      modifiedThen u f [.call (.moveTo d)] (fun X => slotFreed i (workEnded (d % formSize u) X)) s := by
  refine carryOn_markModified m f _ _ h.active h.field fun b => ?_
  rw [carryOn_cont]
  exact ((h.modified b).withTodo []).carryOn_scanMoved m d

end Sys2Proof.Machine
end

section
/-! A SCAN token once its hold is made (R37, R44, R103, R144, R145). -/

namespace Sys2Proof.Machine

/-! ### Its rejection -/

/-- R144's tests of n characters, folded, against the field f from the cursor x, on a form of N cells. -/
def scanFails (n : Nat) (f : Field) (x : Nat) (chars : List Byte) : Prop :=
  (f.mark = none ∧ n < x + chars.length) ∨
    (f.mark ≠ none ∧
      (isDataOf n f x = false ∨ isProtected f.word = true ∨ f.len < chars.length ∨
        (∃ c ∈ chars.map (foldUpper (isUppercase f.word)), allows (entryType f.word) c = false) ∨
        (entryType f.word = .checked ∧
          checkPasses (checkScheme f.word) (chars.map (foldUpper (isUppercase f.word))) = false)))

section
variable {u : SetupBlock} {f : Field} {i : Fin 4} {s : State} (h : AtWork u f (.scan i) s)
include h

theorem AtWork.foldedScan_eq : foldedScan i s = (getSlot s.slots i).chars.map (foldUpper (isUppercase f.word)) := by
  unfold foldedScan
  rw [h.heldField_eq]

theorem AtWork.scanRejected_iff :
    scanRejected i s = true ↔ scanFails (formSize u) f s.composer.cursor (getSlot s.slots i).chars := by
  unfold scanRejected scanFails notEnterable
  dsimp only
  rw [h.heldField_eq, h.foldedScan_eq, h.formN_eq]
  cases f.mark with
  | none => simp
  | some m => simp [or_assoc]

/-- Rejected, the scan ends with cause, count and tone, the cursor and the lock as they were (R144). -/
theorem AtWork.carryOn_rejectScan (m : Nat) :
    carryOn m (rejectScan s) =
      slotFreed i (workEnded s.composer.cursor (toneTrigger (count .scanDrop (offer .scanDrop s)))) := by
  unfold rejectScan
  rw [endWork_scan _ i (by exact h.hand) (by exact h.flight) (by exact h.work)]
  exact carryOn_nil m rfl

theorem AtWork.heldScan_rejected
    (hr : scanFails (formSize u) f s.composer.cursor (getSlot s.slots i).chars) : heldScan i s = rejectScan s := by
  unfold heldScan
  dsimp only
  rw [if_pos (h.scanRejected_iff.mpr hr)]

/-! ### Its reads and writes -/

theorem AtWork.carryOn_heldScan_field (m : Nat)
    (hr : ¬scanFails (formSize u) f s.composer.cursor (getSlot s.slots i).chars) (hm : f.mark ≠ none) :
    carryOn (m + 1) (heldScan i s) =
      claiming (cellAddr u (posAt (formSize u) f 0)) .read (cellReads (formSize u) f ++ [.call .scanRead])
        { s with composer.buffer := [] } := by
  obtain ⟨p, hp⟩ := Option.ne_none_iff_exists'.mp hm
  have hl : 0 < f.len := by
    by_contra hl
    have hd : isDataOf (formSize u) f s.composer.cursor = false := by
      simp only [isDataOf, decide_eq_false_iff_not]; omega
    exact hr (.inr ⟨hm, .inl hd⟩)
  unfold heldScan
  dsimp only
  rw [if_neg (fun e => hr (h.scanRejected_iff.mp e)), h.heldField_eq, hp, h.formN_eq]
  exact carryOn_readOps m _ f _ h.active hl

theorem AtWork.carryOn_heldScan_unformatted (m : Nat) {c : Byte} {cs : List Byte}
    (hr : ¬scanFails (formSize u) f s.composer.cursor (getSlot s.slots i).chars) (hm : f.mark = none)
    (hc : (getSlot s.slots i).chars = c :: cs) :
    carryOn (m + 1) (heldScan i s) =
      claiming (cellAddr u s.composer.cursor) (.write .word (c.setWidth 16))
        ((getSlot s.slots i).chars.zipIdx.map (fun d => Op.write (s.composer.cursor + d.2) (d.1.setWidth 16)) ++
          [.call .setModified,
            .call (.moveTo (min (s.composer.cursor + (getSlot s.slots i).chars.length) (formSize u - 1)))]) s := by
  have hw : (fromPos s.composer.cursor ((getSlot s.slots i).chars.map dataCell)).map (fun pw => Op.write pw.1 pw.2) =
      (getSlot s.slots i).chars.zipIdx.map (fun d => Op.write (s.composer.cursor + d.2) (d.1.setWidth 16)) := by
    rw [fromPos_eq, List.zipIdx_map, List.map_map, List.map_map]
    rfl
  unfold heldScan
  dsimp only
  rw [if_neg (fun e => hr (h.scanRejected_iff.mp e)), h.heldField_eq, hm, h.formN_eq]
  dsimp only
  rw [hw, ← Nat.min_def, hc]
  exact carryOn_write m _ _ _ h.active

theorem AtWork.scanComputed_eq (hold : (wordsRead s).length = f.len) (hl : (getSlot s.slots i).chars.length ≤ f.len) :
    let n := formSize u
    let chars := (getSlot s.slots i).chars.map (foldUpper (isUppercase f.word))
    let placed := chars.map (fun c => (c.setWidth 16 : Word)) ++ List.replicate (f.len - chars.length) 0x0000#16
    let dest :=
      if autoAdvance f.word then tabDest n s.workingFields (posAt n f (f.len - 1))
      else posAt n f (min chars.length (f.len - 1))
    scanComputed s =
      setTodo
        (cellWrites n f (wordsRead s) (adjustCells (adjustOf f.word) placed) ++
          [.call .setModified, .call (.moveTo dest)]) s := by
  intro n chars placed dest
  have hcontents : scanContents f chars = adjustCells (adjustOf f.word) placed := rfl
  have hlen : (wordsRead s).length = (scanContents f chars).length := by
    rw [hcontents, adjustCells_length, hold]
    simp only [placed, chars, List.length_append, List.length_map, List.length_replicate]
    omega
  have hdest : scanDest s f chars.length = dest := by
    unfold scanDest
    rw [h.formN_eq, ← Nat.min_def]
  unfold scanComputed
  dsimp only
  rw [h.work]
  dsimp only
  rw [h.heldField_eq, h.foldedScan_eq, h.formN_eq, diffOps_eq _ _ _ _ hlen, hcontents, hdest]

end

/-! ### The statement -/

theorem toneTrigger_eq (s : State) :
    toneTrigger s = { s with tone := true, timer.toneCompare := some (s.timer.counter + 1000#16) } := rfl

theorem count_scanDrop (s : State) :
    count .scanDrop s = { s with report.counters.scanDrop := countUp s.report.counters.scanDrop } := rfl

theorem besidesCauses_offer (c : Cause) (s : State) : besidesCauses (offer c s) = besidesCauses s := rfl

theorem besidesCauses_toneCount (s : State) :
    besidesCauses (toneTrigger (count .scanDrop s)) = toneTrigger (count .scanDrop (besidesCauses s)) := rfl

/-- The end of a SCAN token's work does not touch the causes. -/
theorem besidesCauses_scanEnded (i : Fin 4) (x : Nat) (s : State) :
    besidesCauses (slotFreed i (workEnded x s)) = slotFreed i (workEnded x (besidesCauses s)) := rfl

/-- A scan rejected offers SCAN DROP and leaves the causes as R144 says (R184). -/
theorem rejected_offers (r : HeldRange) (f : Field) (i : Fin 4) (s : State) :
    offers 0x04#8 s
      (slotFreed i (workEnded s.composer.cursor (toneTrigger (count .scanDrop (offer .scanDrop (heldState r f s))))))
      (slotFreed i
        (workEnded s.composer.cursor
          { s with
            report.counters.scanDrop := countUp s.report.counters.scanDrop, tone := true,
            timer.toneCompare := some (s.timer.counter + 1000#16) })) := by
  refine ⟨rfl, rfl, ?_⟩
  rw [besidesCauses_scanEnded, besidesCauses_toneCount, besidesCauses_offer, ← besidesCauses_toneCount, count_scanDrop,
    toneTrigger_eq]
  rfl

/-- Settles O37: the hold is made and the scan judged; its last transfers end it. -/
theorem heldScanIsJudgedAndWritten : Obligations.HeldScanIsJudgedAndWritten := by
  refine ⟨fun s u r k f i h hm hw => ?_, fun s u p w f i d hw hf => ⟨fun hd _ => ?_, fun hd => ?_⟩,
    fun s u a f i hd hw hf hold hl => ?_⟩
  · intro n x chars folded held rejected
    have at' : AtWork u f (.scan i) (heldState r f s) := heldState_atWork h hw
    have hscan : heldWork (heldState r f s) = heldScan i (heldState r f s) := by
      unfold heldWork; rw [at'.work]
    refine ⟨fun hr => ?_, fun hr hmark => hold_runs h hm ?_, fun c cs hr hmark hc => hold_runs h hm ?_⟩
    · obtain ⟨t, ht, hb⟩ := hold_runs h hm
        ((congrArg (carryOn 15) (hscan.trans (at'.heldScan_rejected hr))).trans (at'.carryOn_rejectScan 15))
      exact ⟨t, ht, offers_congr hb (rejected_offers r f i s)⟩
    · rw [hscan]; exact at'.carryOn_heldScan_field 14 hr hmark
    · rw [hscan]; exact at'.carryOn_heldScan_unformatted 14 hr hmark hc
  · obtain ⟨t, ht, hb⟩ := write_runs hd
    exact ⟨t, ht, hb.trans (congrArg besidesStatus ((wordWritten_atWork hd hw hf).scan_modifiedThen 14 d))⟩
  · obtain ⟨t, ht, hb⟩ := write_runs hd
    exact ⟨t, ht, hb.trans (congrArg besidesStatus (((wordWritten_atWork hd hw hf).withTodo []).carryOn_scanMoved 15 d))⟩
  · intro n chars placed old new dest rest result
    have at' := readTaken_atWork hd hw hf
    have hwords := wordsRead_readTaken [] a s
    have hcomp : scanComputed (setTodo [] (readTaken a s)) = setTodo (cellWrites n f old new ++ rest) (readTaken a s) := by
      have e := (at'.withTodo []).scanComputed_eq (by rw [hwords]; exact hold) hl
      rw [hwords] at e
      exact e
    obtain ⟨t, ht, hb⟩ := read_runs hd
    refine ⟨fun j js hj => ⟨t, ht, hb.trans (congrArg besidesStatus ?_)⟩,
      fun hj => ⟨t, ht, hb.trans (congrArg besidesStatus ?_)⟩⟩
    · show carryOn 15 (scanComputed (setTodo [] (readTaken a s))) = _
      rw [hcomp]
      exact carryOn_cellWrites 14 n f rest at'.active hj
    · show carryOn 15 (scanComputed (setTodo [] (readTaken a s))) = _
      rw [hcomp, cellWrites_nil hj]
      refine (carryOn_call 14 (s := setTodo rest (readTaken a s)) rfl).trans ?_
      exact at'.scan_modifiedThen 13 dest

end Sys2Proof.Machine
end

section
/-! Exit processing (R38 to R41, R134, R136, R141 to R143, R150). -/

namespace Sys2Proof.Machine

/-! ### The contents it computes -/

theorem nulledFrom_eq (k : Option Nat) (ws : List Word) :
    nulledFrom k ws =
      match k with
      | none => ws
      | some k => ws.take k ++ List.replicate (ws.length - k) 0x0000#16 := by
  cases k <;> rfl

theorem length_nulledFrom (k : Option Nat) (ws : List Word) : (nulledFrom k ws).length = ws.length := by
  cases k with
  | none => rfl
  | some k => simp only [nulledFrom, List.length_append, List.length_take, List.length_replicate]; omega

/-- Nulled from offset k, a field has at most k significant cells (R38). -/
theorem significantCells_nulledFrom (k : Nat) (ws : List Word) :
    (significantCells (nulledFrom (some k) ws)).length ≤ k := by
  have hnull : (List.replicate (ws.length - k) 0x0000#16).filter (fun w => isSignificant (charOf w)) = [] := by
    refine List.filter_eq_nil_iff.mpr fun w hw => ?_
    rw [List.eq_of_mem_replicate hw]
    decide
  have htake : ((ws.take k).filter (fun w => isSignificant (charOf w))).length ≤ (ws.take k).length :=
    List.length_filter_le _ _
  rw [List.length_take] at htake
  unfold significantCells nulledFrom
  rw [List.filter_append, hnull, List.append_nil]
  omega

/-- The contents have the field's length: for the minus form the cell at the cursor's offset is null (R40, R143). -/
theorem length_exitContents (f : Field) {nullFrom : Option Nat} {minus : Bool} {old : List Word}
    (h : minus = true → ∃ k < old.length, nullFrom = some k) :
    (exitContents f nullFrom minus old).length = old.length := by
  unfold exitContents
  cases minus with
  | false => exact (adjustCells_length _ _).trans (length_nulledFrom _ _)
  | true =>
    obtain ⟨k, hk, rfl⟩ := h rfl
    refine (minusCells_length _ _ ?_).trans (length_nulledFrom _ _)
    rw [length_nulledFrom]
    exact lt_of_le_of_lt (significantCells_nulledFrom k old) hk

theorem exitFails_iff (f : Field) (new : List Word) :
    exitFails f new = true ↔
      entryType f.word = .checked ∧ checkPasses (checkScheme f.word) (new.map charOf) = false := by
  simp [exitFails]

/-! ### The check, the writes and what follows -/

section
variable {u : SetupBlock} {f : Field} {code : Byte} {s : State} (h : AtWork u f (.key code) s)
include h

theorem AtWork.exitComputed_fails (nullFrom : Option Nat) (minus : Bool) (next : ExitNext)
    (hf : exitFails f (exitContents f nullFrom minus (wordsRead s)) = true) :
    exitComputed nullFrom minus next s = endWork (setCursor f.start (raiseError .checkDigit s)) := by
  unfold exitComputed
  dsimp only
  rw [h.heldField_eq, if_pos hf]

theorem AtWork.exitComputed_passes {nullFrom : Option Nat} {minus : Bool} (next : ExitNext)
    (hl : minus = true → ∃ k < (wordsRead s).length, nullFrom = some k)
    (hf : ¬exitFails f (exitContents f nullFrom minus (wordsRead s)) = true) :
    exitComputed nullFrom minus next s =
      setTodo
        (cellWrites (formSize u) f (wordsRead s) (exitContents f nullFrom minus (wordsRead s)) ++
          [.call (.exitDone next)]) s := by
  unfold exitComputed
  dsimp only
  rw [h.heldField_eq, if_neg hf, h.formN_eq, diffOps_eq _ _ _ _ (length_exitContents f hl).symm]

/-- The key goes on in the event that ends exit processing. -/
theorem AtWork.carryOn_exitDone (m : Nat) (next : ExitNext) :
    carryOn (m + 2) (exitSucceeded next (setTodo [] s)) = exitFollowed u f next s.workingFields s :=
  carryOn_exitSucceeded f next code h.active h.hand h.flight h.field h.work m

end

theorem refusedAt_readTaken (x : Nat) (c : ErrorCode) (ops : List Op) (a : WordAddr) (s : State) :
    refusedAt x c (setTodo ops (readTaken a s)) = refusedAt x c { s with port := none } := refusedAt_congr x c _ _ rfl rfl

/-- Settles O38: the contents are computed at the last read, and the key goes on at the last write. -/
theorem exitProcessingRuns : Obligations.ExitProcessingRuns := by
  refine ⟨fun s u a f code nullFrom minus next hd hw hf hold hk => ?_, fun s u p w code d hd hw => ?_,
    fun s u f p w code next hd _ hw hf => ?_⟩
  · intro n old taken new fails result
    have at' := readTaken_atWork hd hw hf
    have hwords : wordsRead (setTodo [] (readTaken a s)) = old := wordsRead_readTaken [] a s
    have htaken : nulledFrom nullFrom old = taken := nulledFrom_eq nullFrom old
    have hnew : exitContents f nullFrom minus old = new :=
      congrArg (fun ws => if minus then minusCells (adjustOf f.word) ws else adjustCells (adjustOf f.word) ws) htaken
    have hiff : exitFails f (exitContents f nullFrom minus old) = true ↔ fails := by rw [hnew]; exact exitFails_iff f new
    obtain ⟨t, ht, hb⟩ := read_runs hd
    have passes (hn : ¬fails) : exitComputed nullFrom minus next (setTodo [] (readTaken a s)) =
        setTodo (cellWrites n f old new ++ [.call (.exitDone next)]) (readTaken a s) := by
      have e := (at'.withTodo []).exitComputed_passes (nullFrom := nullFrom) (minus := minus) next
        (by rw [hwords]; exact hold.symm ▸ hk) (by rw [hwords]; exact fun e => hn (hiff.mp e))
      rw [hwords, hnew] at e
      exact e
    refine ⟨fun hfail => ⟨t, ht, hb.trans (congrArg besidesStatus ?_)⟩,
      fun j js hn hj => ⟨t, ht, hb.trans (congrArg besidesStatus ?_)⟩,
      fun hn hj => ⟨t, ht, hb.trans (congrArg besidesStatus ?_)⟩⟩
    · show carryOn 15 (exitComputed nullFrom minus next (setTodo [] (readTaken a s))) = _
      rw [(at'.withTodo []).exitComputed_fails nullFrom minus next (by rw [hwords]; exact hiff.mpr hfail),
        (at'.withTodo []).carryOn_refuseAtStart, refusedAt_readTaken]
    · show carryOn 15 (exitComputed nullFrom minus next (setTodo [] (readTaken a s))) = _
      rw [passes hn]
      exact carryOn_cellWrites 14 n f _ at'.active hj
    · show carryOn 15 (exitComputed nullFrom minus next (setTodo [] (readTaken a s))) = _
      rw [passes hn, cellWrites_nil hj]
      exact (carryOn_cont 14 (.exitDone next) (readTaken a s)).trans (at'.carryOn_exitDone 12 next)
  · obtain ⟨t, ht, hb⟩ := write_runs hd
    obtain ⟨-, -, hu, hi, -⟩ := hd
    exact ⟨t, ht, hb.trans (congrArg besidesStatus
      (carryOn_keyMoved (s := setTodo [] (wordWritten u p w s)) hu hi (processorInFlight_none rfl) hw 15 d))⟩
  · obtain ⟨t, ht, hb⟩ := write_runs hd
    exact ⟨t, ht, hb.trans (congrArg besidesStatus ((wordWritten_atWork hd hw hf).carryOn_exitDone 13 next))⟩

end Sys2Proof.Machine
end

section
/-! A data character, DEL and EEF on their way to their end (R35, R131, R134, R138, R139). -/

namespace Sys2Proof.Machine

/-! ### The insert -/

theorem insertJudged_full {c : Byte} {s : State} (hr : charOf (lastRead s) ≠ 0x00#8) :
    insertJudged c s = refuse .fieldFull s := by
  unfold insertJudged
  dsimp only
  rw [if_pos (bne_iff_ne.mpr hr)]

section
variable {u : SetupBlock} {f : Field} {code : Byte} {s : State} (h : AtWork u f (.key code) s)
include h

/-- The cells from the cursor's are moved up one from the highest down, and the character is written (R35). -/
theorem AtWork.insertJudged_free (c : Byte) (hr : charOf (lastRead s) = 0x00#8) :
    let n := formSize u
    let off := offsetOf n f s.composer.cursor
    insertJudged c s =
      setTodo
        (((List.range (f.len - 1 - off)).reverse).flatMap
            (fun i => [Op.read (posAt n f (off + i)), Op.writeBack (posAt n f (off + i + 1))]) ++
          [.write s.composer.cursor (c.setWidth 16), .call .setModified, .call .charWritten]) s := by
  intro n off
  unfold insertJudged
  dsimp only
  rw [if_neg (by simp [hr]), h.heldField_eq, h.formN_eq]
  rfl

theorem AtWork.carryOn_insertJudged (m : Nat) (c : Byte) (hr : charOf (lastRead s) = 0x00#8) :
    let n := formSize u
    let x := s.composer.cursor
    let off := offsetOf n f x
    let rest := [Op.write x (c.setWidth 16), .call .setModified, .call .charWritten]
    (off + 1 = f.len →
      carryOn (m + 1) (insertJudged c s) = claiming (cellAddr u x) (.write .word (c.setWidth 16)) rest s) ∧
    (off + 1 < f.len →
      carryOn (m + 1) (insertJudged c s) =
        claiming (cellAddr u (posAt n f (f.len - 2))) .read
          (((List.range (f.len - 1 - off)).reverse).flatMap
              (fun i => [Op.read (posAt n f (off + i)), Op.writeBack (posAt n f (off + i + 1))]) ++ rest) s) := by
  intro n x off rest
  have hops := h.insertJudged_free c hr
  refine ⟨fun hl => ?_, fun hl => ?_⟩
  · have h0 : f.len - 1 - off = 0 := by omega
    rw [hops, h0]
    exact carryOn_write m _ _ _ h.active
  · obtain ⟨l, hl1, hl2⟩ : ∃ l, f.len - 1 - off = l + 1 ∧ off + l = f.len - 2 := ⟨f.len - 2 - off, by omega, by omega⟩
    rw [hops, hl1, List.range_succ, List.reverse_append, List.reverse_singleton, List.singleton_append,
      List.flatMap_cons, hl2]
    exact carryOn_read m _ _ h.active

end

/-! ### After MODIFIED -/

/-- The character's field is left by AUTO-ADVANCE (R134). -/
abbrev advances (n : Nat) (f : Field) (x : Nat) : Prop :=
  f.mark ≠ none ∧ offsetOf n f x + 1 = f.len ∧ autoAdvance f.word = true

/-- The cursor goes to the next position; with AUTO-ADVANCE at the last cell exit processing reads the field, else the
token ends (R134). -/
def characterFollowed (u : SetupBlock) (f : Field) (x : Nat) (s : State) : State :=
  if advances (formSize u) f x then
    claiming (cellAddr u (posAt (formSize u) f 0)) .read
      (cellReads (formSize u) f ++ [.call (.exitRead none false (.advance x))])
      { s with composer.cursor := (x + 1) % formSize u, composer.buffer := [] }
  else workEnded ((x + 1) % formSize u) s

theorem characterDone_ends {n : Nat} {f : Field} {s : State} (hn : s.formN = n) (hf : heldField s = f)
    (ha : ¬advances n f s.composer.cursor) : characterDone s = endWork (setCursor (s.composer.cursor + 1) s) := by
  unfold characterDone
  dsimp only
  rw [hf, hn, if_neg]
  simpa [Option.isSome_iff_ne_none, and_assoc] using ha

section
variable {u : SetupBlock} {f : Field} {code : Byte} {s : State} (h : AtWork u f (.key code) s)
include h

theorem AtWork.characterDone_advances
    (ha : advances (formSize u) f s.composer.cursor) :
    characterDone s =
      startExit none false (.advance s.composer.cursor) (setCursor (s.composer.cursor + 1) s) := by
  unfold characterDone
  dsimp only
  rw [h.heldField_eq, h.formN_eq, if_pos]
  simpa [Option.isSome_iff_ne_none, and_assoc] using ha

theorem AtWork.carryOn_characterDone (m : Nat) :
    carryOn (m + 1) (characterDone s) = characterFollowed u f s.composer.cursor s := by
  unfold characterFollowed
  split
  next ha =>
    obtain ⟨-, hl, -⟩ := id ha
    rw [h.characterDone_advances ha, (h.moved _).carryOn_startExit m none false _ (by omega), ← h.formN_eq]
    rfl
  next hn => rw [characterDone_ends h.formN_eq h.heldField_eq hn, h.carryOn_moved]

/-- MODIFIED set, a character goes to its end (R131, R134). -/
theorem AtWork.character_modifiedThen (m : Nat) :
    carryOn (m + 2) (markModified (setTodo [.call .charWritten] s)) =
      modifiedThen u f [.call .charWritten] (characterFollowed u f s.composer.cursor) s := by
  refine carryOn_markModified (m + 1) f _ _ h.active h.field fun b => ?_
  rw [carryOn_cont]
  exact ((h.modified b).withTodo []).carryOn_characterDone m

/-- MODIFIED set, DEL or EEF ends with the cursor as it was (R138, R139). -/
theorem AtWork.finish_modifiedThen (m : Nat) :
    carryOn (m + 1) (markModified (setTodo [.call .finish] s)) =
      modifiedThen u f [.call .finish] (workEnded s.composer.cursor) s := by
  refine carryOn_markModified m f _ _ h.active h.field fun b => ?_
  rw [carryOn_cont]
  exact ((h.modified b).withTodo []).carryOn_ended m

end

/-- The erase of the last cell, null already, completes: the continuation behind it runs in the same event (R139). -/
theorem erased_runs {a : WordAddr} {p : Nat} {k : Cont} {rest : List Op} {s : State} (hj : claimsJoined s)
    (ha : noAbort s) (hp : s.port = some { owner := .composer, addr := a, op := .read, orphan := false })
    (ht : s.composer.todo = .eraseCell p :: .call k :: rest) (h0 : readWord s.mem a = 0x0000#16) :
    ∃ t, exec .composerTransferCompletion s = .next t ∧
      besidesStatus t = besidesStatus (carryOn 15 (runCont k (setTodo rest { s with port := none }))) := by
  have hd : composerDone s = carryOn 15 (runCont k (setTodo rest { s with port := none })) := by
    rw [composerDone_read hp ht ha, opDone_null h0]
    exact carryOn_call 15 (s := setTodo (.call k :: rest) { s with port := none }) rfl
  refine composer_next hp rfl hd ?_
  exact claimsJoined_outside (s := { s with port := none }) (by rw [outside_carryOn, outside_runCont]; rfl) hj

end Sys2Proof.Machine
end

section
/-! The end of a token's work with a write of the processor held for its range: the write is decided anew, as if it arrived
then (R52, R54). -/

namespace Sys2Proof.Machine

/-! ### A write decided at the release -/

theorem passOrMerge_ne_report (u : SetupBlock) (t : Transfer) (i : Fin 32) : passOrMerge u t ≠ .report i := by
  unfold passOrMerge
  repeat' split
  all_goals simp

theorem enforcedWrite_ne_report (u : SetupBlock) (s : State) (t : Transfer) (i : Fin 32) :
    enforcedWrite u s t ≠ .report i := by
  unfold enforcedWrite
  repeat' split
  all_goals simp [passOrMerge_ne_report]

/-- The decision hands no write to the report unit before its grant (R64, R65). -/
theorem decideTransfer_write {s : State} {t : Transfer} (h : isWrite t = true) (i : Fin 32) :
    decideTransfer s t ≠ .report i := by
  unfold decideTransfer windowAction
  rw [h]
  simp only [if_true, Bool.true_and]
  repeat' split
  all_goals simp [passOrMerge_ne_report, enforcedWrite_ne_report]

/-- A write is decided alike before and after the composer has become IDLE. -/
theorem idleComposer_takeIn {s : State} {t : Transfer} (h : isWrite t = true) :
    idleComposer (takeIn t s) = takeIn t (idleComposer s) := by
  have hd : decideTransfer (idleComposer s) t = decideTransfer s t := rfl
  unfold takeIn
  rw [hd]
  cases hc : decideTransfer s t with
  | report i => exact absurd hc (decideTransfer_write h i)
  | hold | route | suppress | masked => rfl

/-- The release decides a held transfer anew, with no range held (R52, R54). -/
theorem releaseRange_held {s : State} {tr : Transfer} {why : HoldReason} (hi : s.inHand = some ⟨tr, .held why⟩)
    (hf : s.processorInFlight = false) (hr : s.heldRange ≠ .empty) :
    releaseRange s =
      takeIn tr { s with inHand := none, heldRange := .empty, posting := none, composer.posted := .empty } := by
  unfold releaseRange
  rw [if_neg (fun e => hr e.1), hf, if_neg (by simp)]
  exact takePosting_takeIn (s := { s with composer.posted := .empty }) hi (by simp)

/-- A key's work ends with a write held: the work has ended when the write is decided. -/
theorem endWork_held {s : State} {tr : Transfer} {why : HoldReason} {code : Byte} (hi : s.inHand = some ⟨tr, .held why⟩)
    (hf : s.processorInFlight = false) (hr : s.heldRange ≠ .empty) (hw : s.composer.work = .token (.key code))
    (ht : isWrite tr = true) : endWork s = takeIn tr (workEnded s.composer.cursor { s with inHand := none }) := by
  have h : endWork s = idleComposer (releaseRange s) := by simp [endWork, hw, freeTokenSlot]
  rw [h, releaseRange_held hi hf hr, idleComposer_takeIn ht]
  rfl

theorem workEnded_posting {s : State} (h : s.posting = none) (x : Nat) :
    workEnded x s =
      { s with heldRange := .empty, composer := idleWith x s.composer.insertMode s.composer } := by
  cases s
  cases h
  rfl

/-! ### What the map makes of the last write -/

/-- No transfer of the processor waits for its grant. -/
def noneWaits (i : Option InHand) : Prop := ∀ tr r, i ≠ some ⟨tr, .waiting r⟩

theorem maskWaiting_still {p : Nat} {s : State} (h : noneWaits s.inHand) : maskWaiting p s = s := by
  unfold maskWaiting
  cases hi : s.inHand with
  | none => rfl
  | some x =>
    obtain ⟨tr, st⟩ := x
    cases st with
    | waiting r => exact absurd hi (h tr r)
    | held | granted => rfl

theorem followWrite_still {p : Nat} {w : Word} {m : FieldMap} {s : State} (h : noneWaits s.inHand) :
    followWrite p w m s = { s with map := m } := by
  unfold followWrite
  split
  · exact maskWaiting_still (s := { s with map := m }) h
  · rfl

/-- The write on the port completed, with what the map and the report unit have become. -/
def writtenWith (a : WordAddr) (w : Word) (m : FieldMap) (rep : ReportUnit) (at' : Bool) (s : State) : State :=
  { s with mem := writeLanes s.mem a .word w, port := none, map := m, report := rep, attn := at' }

/-- In CURRENT the write changes the map and at most the causes, whatever transfer is held (R11 to R13). -/
theorem writeLearnt_still (a : WordAddr) (w : Word) {s : State} (hm : s.map.state = .current) : ∃ m rep at',
    (∀ i, noneWaits i →
      writeLearnt a w { s with inHand := i } = writtenWith a w m rep at' { s with inHand := i }) ∧
      besidesCauses { s with report := rep, attn := at' } = besidesCauses s := by
  unfold writeLearnt learnTransfer learnWrite
  dsimp only [portDone, memAfter]
  cases hu : s.setup.active with
  | none => exact ⟨s.map, s.report, s.attn, fun i _ => rfl, rfl⟩
  | some u =>
    dsimp only
    cases hp : formPos u a with
    | none => exact ⟨s.map, s.report, s.attn, fun i _ => rfl, rfl⟩
    | some p =>
      dsimp only
      unfold upkeep
      dsimp only
      rw [hm]
      dsimp only
      cases judgeWrite p (readWord (writeLanes s.mem a .word w) a) s.map with
      | some m => exact ⟨m, s.report, s.attn, fun i hi => followWrite_still hi, rfl⟩
      | none =>
        let y : State := { s with map.state := .limit, map.table := [] }
        exact ⟨y.map, (offer .formatLimit y).report, (offer .formatLimit y).attn, fun i _ => rfl, rfl⟩

/-- The last write of a character that does not leave its field is on the port. -/
structure CharacterEnd (u : SetupBlock) (a : WordAddr) (w : Word) (f : Field) (code : Byte) (s : State) : Prop where
  active : s.setup.active = some u
  current : s.map.state = .current
  noAbort : noAbort s
  work : s.composer.work = .token (.key code)
  field : s.composer.field = some f
  stays : ¬advances (formSize u) f s.composer.cursor
  port : s.port = some (composerWrite a w)
  todo : ∃ p, s.composer.todo = [.write p w, .call .charWritten]

section
variable {u : SetupBlock} {a : WordAddr} {w : Word} {f : Field} {code : Byte} {s : State} (h : CharacterEnd u a w f code s)
include h

theorem CharacterEnd.withHand (i : Option InHand) : CharacterEnd u a w f code { s with inHand := i } :=
  ⟨h.active, h.current, h.noAbort, h.work, h.field, h.stays, h.port, h.todo⟩

/-- The write completes, and the token ends with the cursor at the next position (R134). -/
theorem CharacterEnd.done_of {m : FieldMap} {rep : ReportUnit} {at' : Bool}
    (hl : writeLearnt a w s = writtenWith a w m rep at' s) :
    composerDone s = endWork (setCursor (s.composer.cursor + 1) (setTodo [] (writtenWith a w m rep at' s))) := by
  obtain ⟨p, ht⟩ := h.todo
  have ht' : (writtenWith a w m rep at' s).composer.todo = [.write p w, .call .charWritten] := ht
  have hN : (setTodo [] (writtenWith a w m rep at' s)).formN = formSize u := by
    show s.formN = _
    simp [State.formN, h.active]
  have hF : heldField (setTodo [] (writtenWith a w m rep at' s)) = f := by
    simp [heldField, setTodo, writtenWith, h.field]
  have e : learnTransfer (composerWrite a w) (portDone (composerWrite a w) s) = writtenWith a w m rep at' s := hl
  unfold composerDone
  rw [h.port]
  dsimp only
  rw [if_neg (by simp), e, ht']
  dsimp only
  rw [carryComposer_opDone (by exact h.noAbort)]
  refine (carryOn_cont 15 .charWritten (writtenWith a w m rep at' s)).trans ?_
  show carryOn 15 (characterDone (setTodo [] (writtenWith a w m rep at' s))) = _
  rw [characterDone_ends hN hF (by exact h.stays)]
  exact carryOn_nil 15 rfl

end

section
variable {u : SetupBlock} {a : WordAddr} {w : Word} {f : Field} {code : Byte} {s : State} (h : CharacterEnd u a w f code s)
  {m : FieldMap} {rep : ReportUnit} {at' : Bool}
include h

/-- With no transfer in hand the work has ended. -/
theorem CharacterEnd.done_alone (hi : s.inHand = none) (hl : writeLearnt a w s = writtenWith a w m rep at' s) :
    composerDone s = workEnded ((s.composer.cursor + 1) % formSize u) (writtenWith a w m rep at' s) :=
  (h.done_of hl).trans
    (carryOn_keyMoved (s := setTodo [] (writtenWith a w m rep at' s)) h.active hi (processorInFlight_none rfl) h.work 0
      (s.composer.cursor + 1))

/-- With a write held for the range it is decided when the work has ended. -/
theorem CharacterEnd.done_held {tr : Transfer} {why : HoldReason} (hi : s.inHand = some ⟨tr, .held why⟩)
    (hr : s.heldRange ≠ .empty) (ht : isWrite tr = true) (hl : writeLearnt a w s = writtenWith a w m rep at' s) :
    composerDone s =
      takeIn tr
        (workEnded ((s.composer.cursor + 1) % formSize u) (writtenWith a w m rep at' { s with inHand := none })) := by
  have hN : s.formN = formSize u := by simp [State.formN, h.active]
  rw [h.done_of hl, ← hN]
  exact endWork_held (s := setCursor (s.composer.cursor + 1) (setTodo [] (writtenWith a w m rep at' s))) hi
    (processorInFlight_none rfl) hr h.work ht

end

/-! ### The statement -/

/-- Settles O43. -/
theorem characterIsWritten : Obligations.CharacterIsWritten := by
  refine ⟨fun s u a ch code f hd hw hf he => ?_, fun s u p w code f hw hf => ?_,
    fun s u a p code f hj hu hi ha hw hf hp ht h0 => ?_, fun s u f a p w code hj _ hu hm hpost ha hw hf hn hp ht => ?_⟩
  · intro n x off result rest
    have at' := readTaken_atWork hd hw hf
    have hlt : off < f.len := by simpa [isDataOf] using he
    obtain ⟨t, ht, hb⟩ := read_runs hd
    refine ⟨fun hfull => ⟨t, ht, hb.trans (congrArg besidesStatus ?_)⟩, fun hfree => ?_⟩
    · show carryOn 15 (insertJudged ch (setTodo [] (readTaken a s))) = _
      rw [insertJudged_full (by exact hfull), (at'.withTodo []).carryOn_refuse, refusedAt_readTaken]
      rfl
    · obtain ⟨hlast, hmid⟩ := (at'.withTodo []).carryOn_insertJudged 14 ch hfree
      exact ⟨fun hl => ⟨t, ht, hb.trans (congrArg besidesStatus (hlast hl))⟩,
        fun hl => ⟨t, ht, hb.trans (congrArg besidesStatus (hmid hl))⟩⟩
  · intro n x result advanced
    refine ⟨fun hd _ => ?_, fun hd _ => ?_, fun hd => ?_, fun hd => ?_⟩
    all_goals
      have at' := wordWritten_atWork hd hw hf
      obtain ⟨t, ht, hb⟩ := write_runs hd
      refine ⟨t, ht, hb.trans (congrArg besidesStatus ?_)⟩
    · exact at'.character_modifiedThen 13
    · exact at'.finish_modifiedThen 14
    · exact (at'.withTodo []).carryOn_characterDone 14
    · exact (at'.withTodo []).carryOn_ended 15
  · obtain ⟨t, hx, hb⟩ := erased_runs hj ha hp ht h0
    have at' : AtWork u f (.key code) { s with port := none } := ⟨hu, hi, processorInFlight_none rfl, hw, hf⟩
    exact ⟨t, hx, hb.trans (congrArg besidesStatus (at'.finish_modifiedThen 14))⟩
  · have hstays : ¬advances (formSize u) f s.composer.cursor := by
      rintro ⟨hmark, hlast, hauto⟩
      rcases hn with e | e | e
      · exact hmark e
      · exact e hlast
      · rw [hauto] at e; cases e
    have h : CharacterEnd u a w f code s := ⟨hu, hm, ha, hw, hf, hstays, hp, p, ht⟩
    obtain ⟨m, rep, at', hl, hc⟩ := writeLearnt_still a w hm
    refine ⟨fun hi => ?_, fun tr hi hwrite hr => ?_⟩
    · have hdone := h.done_alone hi (by exact hl s.inHand (by rw [hi]; exact fun _ _ => nofun))
      obtain ⟨t, hx, hb⟩ := composer_next hp rfl hdone hj
      have hmap : t.map = m := map_besides hb
      refine ⟨t, hx, (besidesCauses_congr hb).trans ?_⟩
      rw [workEnded_posting (by exact hpost), hmap]
      exact congrArg (fun y : State =>
        { y with
          mem := writeLanes s.mem a .word w, port := none, map := m, heldRange := .empty,
          composer := idleWith ((s.composer.cursor + 1) % formSize u) s.composer.insertMode s.composer }) hc
    · have hdone := h.done_held hi hr hwrite (by exact hl s.inHand (by rw [hi]; exact fun _ _ => nofun))
      have hempty := (h.withHand none).done_alone rfl (hl none (fun _ _ => nofun))
      exact event_arrivedAt (f := composerDone) (by simp [carriesComposer, hp]) rfl rfl hempty rfl hdone hj

end Sys2Proof.Machine
end

section
/-! The field walks: how a step's posting is taken, and the validation of a field (R41, R151 to R153, R160, R161). -/

namespace Sys2Proof.Machine

/-! ### What follows a step does not depend on the work then left -/

theorem walkOver_setTodo (u : SetupBlock) (w : Walk) (ops : List Op) (s : State) :
    walkOver u w (setTodo ops s) = walkOver u w s := by
  cases w with
  | validate => exact sendLocked_setTodo u ops s
  | gather => rfl

theorem walkOn_setTodo (u : SetupBlock) (w : Walk) (f : Field) (ops : List Op) (s : State) :
    walkOn u w f (setTodo ops s) = walkOn u w f s := by
  have hl : (setTodo ops s).liveFields = s.liveFields := rfl
  unfold walkOn
  cases f.mark with
  | none => exact walkOver_setTodo u w ops s
  | some m =>
    dsimp only
    rw [setTodo_keeps_map, hl]
    split
    · split
      · rfl
      · exact walkOver_setTodo u w ops { s with composer.lastHandled := some m }
    · cases w with
      | validate => exact refusedAt_congr _ _ _ _ rfl rfl
      | gather => rfl

/-! ### A step's posting is taken (R151) -/

/-- The posting is taken, and the continuation behind it goes on to x in the same event. -/
theorem posting_goes {u : SetupBlock} {r : HeldRange} {k : Cont} {s x : State} (h : postingDue u r k s)
    (hx : carryOn 15 (runCont k (setTodo [] (rangeTaken r s))) = x) :
    ∃ t, exec .heldRangePosting s = .next t ∧ besidesStatus t = besidesStatus x := by
  obtain ⟨t, ht, hb⟩ := posting_runs h
  exact ⟨t, ht, hb.trans (congrArg besidesStatus hx)⟩

theorem selectField_of_selects {g : Option Field} {s : State} (h : selects g s) : selectField s = some g := by
  obtain ⟨hm, rfl⟩ := h
  unfold selectField
  split
  next => cases s.composer.lastHandled <;> rfl
  all_goals next he => rw [hm] at he; cases he

theorem selectField_outside {s : State} (h : s.map.state ≠ .current) : selectField s = none := by
  unfold selectField
  cases hm : s.map.state with
  | current => exact absurd hm h
  | unbuilt | rebuilding | limit => rfl

section
variable {u : SetupBlock} {r : HeldRange} {k : Cont} {w : Walk} {s : State}

/-- The hold of a step is made, the live table the working table (R151 step 4). -/
theorem stepMadeBy_runs {f : Field} (hm : stepMadeBy w k f s) :
    runCont k (setTodo [] (rangeTaken r s)) = madeStep w f (setTodo [] (rangeTaken r s)) := by
  rcases hm with ⟨rfl, hs⟩ | ⟨rfl, hf⟩
  · have hsel : selectField (setTodo [] (rangeTaken r s)) = some (some f) := selectField_of_selects hs
    show stepTaken w f.mark f.len (setTodo [] (rangeTaken r s)) = _
    unfold stepTaken
    rw [hsel]
    exact if_pos ⟨rfl, rfl⟩
  · have hh : heldField (setTodo [] (rangeTaken r s)) = f := by simp [heldField, setTodo, rangeTaken, hf]
    show madeStep w (heldField (setTodo [] (rangeTaken r s))) (setTodo [] (rangeTaken r s)) = _
    rw [hh]

/-- A selection that has changed since its posting is made anew under WHOLE (R151 step 3). -/
theorem stepTaken_changed {m : Option Nat} {l : Nat} {g : Option Field} (hs : selects g s)
    (hg : ∀ f, g = some f → ¬(f.mark = m ∧ f.len = l)) :
    stepTaken w m l s = setTodo [.post .whole, .call (.stepWhole w)] s := by
  unfold stepTaken
  rw [selectField_of_selects hs]
  cases g with
  | none => rfl
  | some f => exact if_neg (hg f rfl)

theorem stepUnderWhole_field {f : Field} (hs : selects (some f) s) :
    stepUnderWhole w s =
      setTodo [.post (heldRangeOf s.map.table f), .call (.stepMade w)] { s with composer.field := some f } := by
  unfold stepUnderWhole
  rw [selectField_of_selects hs]

theorem stepUnderWhole_over (hs : selects none s) : stepUnderWhole w s = walkEnd w s := by
  unfold stepUnderWhole
  rw [selectField_of_selects hs]

/-- Either step finds a map outside CURRENT (R160). -/
theorem step_outside (hk : (∃ m l, k = .stepFirst w m l) ∨ k = .stepWhole w) (hm : s.map.state ≠ .current) :
    runCont k s = walkLimit w s := by
  rcases hk with ⟨m, l, rfl⟩ | rfl
  · show stepTaken w m l s = _
    unfold stepTaken
    rw [selectField_outside hm]
  · show stepUnderWhole w s = _
    unfold stepUnderWhole
    rw [selectField_outside hm]

end

/-! ### The validation of a field (R152) -/

/-- The field is judged: formatted, unprotected and not empty. -/
abbrev judgedField (f : Field) : Prop := f.mark ≠ none ∧ isProtected f.word = false ∧ 1 ≤ f.len
/-- It fails MUST-ENTER. -/
abbrev enterFails (f : Field) : Prop := mustEnter f.word = true ∧ isModified f.word = false
/-- Its cells must be read. -/
abbrev validationReads (f : Field) : Prop :=
  isModified f.word = true ∧ (mustFill f.word = true ∨ entryType f.word = .checked)

theorem judgedField_iff (f : Field) : (f.mark.isNone || !eligible f) = true ↔ ¬judgedField f := by
  rw [Bool.or_eq_true, Option.isNone_iff_eq_none, Bool.not_eq_true', ← Bool.not_eq_true, eligible_iff]
  unfold judgedField
  tauto

theorem enterFails_iff (f : Field) : (mustEnter f.word && !isModified f.word) = true ↔ enterFails f := by
  simp [enterFails]

theorem validationReads_iff (f : Field) :
    (isModified f.word && (mustFill f.word || entryType f.word == .checked)) = true ↔ validationReads f := by
  simp [validationReads]

section
variable {u : SetupBlock} {f : Field} {code : Byte} {s : State} (h : AtWork u f (.key code) s)
include h

theorem AtWork.validateField_fails (hj : judgedField f) (he : enterFails f) :
    validateField s = endWork (setCursor f.start (raiseError .mustEnter s)) := by
  unfold validateField
  dsimp only
  rw [h.heldField_eq, if_neg (fun e => (judgedField_iff f).mp e hj), if_pos ((enterFails_iff f).mpr he)]

theorem AtWork.validateField_reads (hj : judgedField f) (he : ¬enterFails f) (hr : validationReads f) :
    validateField s = setTodo (readOps (formSize u) f ++ [.call .validationRead]) (clearBuffer s) := by
  unfold validateField
  dsimp only
  rw [h.heldField_eq, if_neg (fun e => (judgedField_iff f).mp e hj), if_neg (fun e => he ((enterFails_iff f).mp e)),
    if_pos ((validationReads_iff f).mpr hr), h.formN_eq]

theorem AtWork.validateField_passes (hp : ¬judgedField f ∨ (¬enterFails f ∧ ¬validationReads f)) :
    validateField s = nextStep .validate s := by
  unfold validateField
  dsimp only
  rw [h.heldField_eq]
  by_cases hj : judgedField f
  · obtain ⟨he, hr⟩ := hp.resolve_left (not_not_intro hj)
    rw [if_neg (fun e => (judgedField_iff f).mp e hj), if_neg (fun e => he ((enterFails_iff f).mp e)),
      if_neg (fun e => hr ((validationReads_iff f).mp e))]
  · rw [if_pos ((judgedField_iff f).mpr hj)]

/-- The walk goes on after the field. -/
theorem AtWork.carryOn_validated (m : Nat) : carryOn (m + 1) (nextStep .validate s) = walkOn u .validate f s :=
  carryOn_nextStep m .validate f h.active h.hand h.flight h.field fun _ => ⟨code, h.work⟩

end

/-- MUST-FILL fails on the words read: one of them is a null or a blank (R152). -/
theorem fillFails_iff (f : Field) (ws : List Word) :
    (mustFill f.word && !ws.all (fun w => isSignificant (charOf w))) = true ↔
      mustFill f.word = true ∧ ∃ w ∈ ws, charOf w = 0x00#8 ∨ charOf w = 0x20#8 := by
  rw [Bool.and_eq_true, Bool.not_eq_true', List.all_eq_false]
  refine and_congr_right fun _ => exists_congr fun w => and_congr_right fun _ => ?_
  unfold isSignificant
  rw [Bool.and_eq_true, bne_iff_ne, bne_iff_ne]
  tauto

section
variable {u : SetupBlock} {f : Field} {code : Byte} {s : State} (h : AtWork u f (.key code) s)
include h

/-- The tests on the words read, in their order: MUST-FILL, the check test, and the walk goes on (R152). -/
theorem AtWork.validationJudged_cases :
    let fillFails := mustFill f.word = true ∧ ∃ w ∈ wordsRead s, charOf w = 0x00#8 ∨ charOf w = 0x20#8
    let checkFails := entryType f.word = .checked ∧ checkPasses (checkScheme f.word) ((wordsRead s).map charOf) = false
    (fillFails → validationJudged s = endWork (setCursor f.start (raiseError .mustFill s))) ∧
    (¬fillFails → checkFails → validationJudged s = endWork (setCursor f.start (raiseError .checkDigit s))) ∧
    (¬fillFails → ¬checkFails → validationJudged s = nextStep .validate s) := by
  intro fillFails checkFails
  have hfill := fillFails_iff f (wordsRead s)
  have hcheck : (entryType f.word == .checked && !checkPasses (checkScheme f.word) ((wordsRead s).map charOf)) = true ↔
      checkFails := by simp [checkFails]
  unfold validationJudged
  dsimp only
  rw [h.heldField_eq]
  refine ⟨fun hf => by rw [if_pos (hfill.mpr hf)], fun hf hc => ?_, fun hf hc => ?_⟩
  · rw [if_neg (fun e => hf (hfill.mp e)), if_pos (hcheck.mpr hc)]
  · rw [if_neg (fun e => hf (hfill.mp e)), if_neg (fun e => hc (hcheck.mp e))]

end

/-! ### The statement -/

/-- Settles O39: the hold of a step, the selection made anew, and the tests on the words read. -/
theorem validationJudgesFields : Obligations.ValidationJudgesFields := by
  refine ⟨fun s u r k h => ?_, fun s u a f code hd hw hf => ?_⟩
  · intro sending result
    obtain ⟨-, hu, hi, hfl, -, -⟩ := id h
    refine ⟨fun f hs hm => ?_, fun w hs => ⟨fun m l g hk hsel hg => ?_, fun f hk hsel => ?_, fun hk hsel => ?_⟩,
      fun hs hk hn => ?_, fun hk hn => ?_⟩
    · obtain ⟨code, hw⟩ := hs
      have at' : AtWork u f (.key code) (heldState r f s) := heldState_atWork h hw
      have go {x y : State} (hx : validateField (heldState r f s) = x) (hy : carryOn 15 x = y) : result y :=
        posting_goes h (by rw [stepMadeBy_runs hm, ← hy, ← hx]; rfl)
      intro judged enterFails reads
      refine ⟨fun hj he => go (at'.validateField_fails hj he) ?_, fun hj he hr => go (at'.validateField_reads hj he hr) ?_,
        fun hp => go (at'.validateField_passes hp) ?_⟩
      · exact (at'.carryOn_refuseAtStart 15 _).trans (refusedAt_heldState _ _ r f s)
      · exact carryOn_readOps 14 _ f _ at'.active hj.2.2
      · exact (at'.carryOn_validated 14).trans (walkOn_setTodo u .validate f [] _)
    · subst hk
      refine posting_goes h ?_
      show carryOn 15 (stepTaken w m l (setTodo [] (rangeTaken r s))) = _
      rw [stepTaken_changed (by exact hsel) hg]
      exact carryOn_post 14 _ _ hu
    · subst hk
      refine posting_goes h ?_
      show carryOn 15 (stepUnderWhole w (setTodo [] (rangeTaken r s))) = _
      rw [stepUnderWhole_field (by exact hsel)]
      exact carryOn_post 14 _ _ hu
    · subst hk
      refine posting_goes h ?_
      show carryOn 15 (stepUnderWhole w (setTodo [] (rangeTaken r s))) = _
      rw [stepUnderWhole_over (by exact hsel)]
      exact (carryOn_walkEnd 14 w (s := setTodo [] (rangeTaken r s)) hu hi hfl hs).trans (walkOver_setTodo u w [] _)
    · obtain ⟨code, hw⟩ := hs
      refine posting_goes h ?_
      rw [step_outside hk (by exact hn)]
      exact (carryOn_walkLimit_validate 15 code (by exact hi) (by exact hfl) (by exact hw)).trans (refusedAt_taken _ _ r s)
    · refine posting_goes h ?_
      rw [step_outside hk (by exact hn)]
      exact carryOn_walkLimit_gather 14 hu
  · have at' := (readTaken_atWork hd hw hf).withTodo []
    obtain ⟨hfill, hcheck, hpass⟩ := at'.validationJudged_cases
    rw [wordsRead_readTaken] at hfill hcheck hpass
    intro result fillFails checkFails
    have go {x y : State} (hx : validationJudged (setTodo [] (readTaken a s)) = x) (hy : carryOn 15 x = y) : result y := by
      obtain ⟨t, ht, hb⟩ := read_runs hd
      exact ⟨t, ht, hb.trans (congrArg besidesStatus (by rw [← hy, ← hx]; rfl))⟩
    refine ⟨fun hf => go (hfill hf) ?_, fun hf hc => go (hcheck hf hc) ?_, fun hf hc => go (hpass hf hc) ?_⟩
    · exact (at'.carryOn_refuseAtStart 15 _).trans (refusedAt_readTaken _ _ [] a s)
    · exact (at'.carryOn_refuseAtStart 15 _).trans (refusedAt_readTaken _ _ [] a s)
    · exact (at'.carryOn_validated 14).trans (walkOn_setTodo u .validate f [] _)

end Sys2Proof.Machine
end

section
/-! The gather: its fields, its entries and the words of the return list (R45 to R47, R151, R154, R156 to R160). -/

namespace Sys2Proof.Machine

/-! ### The characters of an entry and their words -/

/-- The gathered characters are those of the cells up to the last that is not null (R45). -/
theorem gatheredChars_take (ws : List Word) : ∃ m ≤ ws.length, (∀ w ∈ ws.drop m, charOf w = 0x00#8) ∧
    (∀ w, (ws.take m).getLast? = some w → charOf w ≠ 0x00#8) ∧
    gatheredChars ws = (ws.take m).map (fun w => if charOf w = 0x00#8 then 0x20#8 else charOf w) := by
  induction ws using List.reverseRecOn with
  | nil => exact ⟨0, by simp, by simp, by simp, rfl⟩
  | append_singleton ws w ih =>
    by_cases hw : charOf w = 0x00#8
    · obtain ⟨m, hm, hdrop, hlast, hg⟩ := ih
      refine ⟨m, by simp; omega, ?_, ?_, ?_⟩
      · intro v hv
        rw [List.drop_append_of_le_length hm] at hv
        rcases List.mem_append.mp hv with hv | hv
        · exact hdrop v hv
        · rw [List.mem_singleton.mp hv]; exact hw
      · rw [List.take_append_of_le_length hm]; exact hlast
      · rw [List.take_append_of_le_length hm, ← hg]
        simp [gatheredChars, hw]
    · refine ⟨(ws ++ [w]).length, Nat.le_refl _, by simp, fun v hv => ?_, ?_⟩
      · rw [List.take_length, List.getLast?_append, List.getLast?_singleton] at hv
        cases hv
        exact hw
      · rw [List.take_length]
        simp [gatheredChars, hw, Function.comp_def]

theorem packChars_length (cs : List Byte) : (packChars cs).length = (cs.length + 1) / 2 := by
  induction cs using packChars.induct with
  | case1 => rfl
  | case2 a => simp [packChars]
  | case3 a b r ih => simp only [packChars, List.length_cons, ih]; omega

/-- Two characters to a word, the earlier in the low byte (R46). -/
theorem packChars_getD (cs : List Byte) (j : Nat) :
    ((packChars cs).getD j 0#16).toNat = (cs.getD (2 * j) 0#8).toNat + 256 * (cs.getD (2 * j + 1) 0#8).toNat := by
  induction cs using packChars.induct generalizing j with
  | case1 => rfl
  | case2 a =>
    cases j with
    | zero =>
      have ha := a.isLt
      have hword : (a.setWidth 16 : Word).toNat = a.toNat := by
        rw [BitVec.toNat_setWidth, Nat.mod_eq_of_lt (by omega)]
      exact hword
    | succ j => simp [packChars]
  | case3 a b r ih =>
    cases j with
    | zero =>
      have hword : ((b ++ a : BitVec (8 + 8))).toNat = a.toNat + 256 * b.toNat := by
        rw [BitVec.toNat_append, ← Nat.shiftLeft_add_eq_or_of_lt a.isLt, Nat.shiftLeft_eq]
        omega
      exact hword
    | succ j => exact ih j

/-! ### The field taken and its entry -/

/-- The gather takes the field: GUNP an unprotected one that is not empty, else a modified one (R157). -/
theorem gatherTakes_iff (s : State) (f : Field) :
    gatherTakes s f = true ↔
      ((∃ op, s.composer.work = .directive .gunp op) ∧ isProtected f.word = false ∧ 1 ≤ f.len) ∨
      ((∀ op, s.composer.work ≠ .directive .gunp op) ∧ isModified f.word = true) := by
  by_cases hg : ∃ op, s.composer.work = .directive .gunp op
  · obtain ⟨op, hop⟩ := hg
    simp [gatherTakes, hop, eligible_iff]
  · have hn : ∀ op, s.composer.work ≠ .directive .gunp op := fun op e => hg ⟨op, e⟩
    have ht : gatherTakes s f = isModified f.word := by
      unfold gatherTakes
      split
      next op e => exact absurd e (hn op)
      next => rfl
    rw [ht]
    simp [hn]

section
variable {u : SetupBlock} {f : Field} {s : State} (hu : s.setup.active = some u) (hf : s.composer.field = some f)
include hf

theorem gatherField_passes (ht : ¬gatherTakes s f = true) : gatherField s = nextStep .gather s := by
  have hh : heldField s = f := by simp [heldField, hf]
  unfold gatherField
  rw [hh, if_neg ht]

include hu

theorem gatherField_takes (ht : gatherTakes s f = true) :
    gatherField s = setTodo (readOps (formSize u) f ++ [.call .gatherRead]) (clearBuffer s) := by
  have hh : heldField s = f := by simp [heldField, hf]
  have hn : s.formN = formSize u := by simp [State.formN, hu]
  unfold gatherField
  rw [hh, if_pos ht, hn]

/-- The entry of the words read is written when it fits the capacity, else the list closes (R47, R158). -/
theorem carryOn_gatherJudged (m : Nat) :
    let cs := gatheredChars (wordsRead s)
    let size := 2 + (cs.length + 1) / 2
    (s.composer.used + size ≤ (setupWord u 14).toNat →
      carryOn (m + 1) (gatherJudged s) =
        claiming (returnAddr u s.composer.used) (.write .word (BitVec.ofNat 16 f.start))
          ((BitVec.ofNat 16 f.start :: BitVec.ofNat 16 cs.length :: packChars cs).zipIdx.map
              (fun d => Op.list (s.composer.used + d.2) d.1) ++ [.call (.entryWritten size)]) s) ∧
    ((setupWord u 14).toNat < s.composer.used + size →
      carryOn (m + 1) (gatherJudged s) = listEnding u .truncated .closing s) := by
  intro cs size
  have hh : heldField s = f := by simp [heldField, hf]
  have hcap : s.setup.active.elim 0 returnCapacity = (setupWord u 14).toNat := by rw [hu]; rfl
  unfold gatherJudged
  dsimp only
  rw [hh, hcap]
  refine ⟨fun hfit => ?_, fun hover => ?_⟩
  · rw [if_pos (by exact hfit), listOps_eq]
    exact carryOn_list m _ _ _ hu
  · rw [if_neg (by exact Nat.not_le.mpr hover)]
    exact carryOn_closingWrites m .truncated .closing hu

end

/-! ### A word of the list -/

/-- The last write of a series to the list completes, outside the form area: the continuation behind it runs in the same
event (R156, R158). -/
theorem list_runs {u : SetupBlock} {a : WordAddr} {i : Nat} {w : Word} {k : Cont} {s : State} (hj : claimsJoined s)
    (hu : s.setup.active = some u) (hfp : formPos u a = none) (ha : noAbort s)
    (hp : s.port = some { owner := .composer, addr := a, op := .write .word w, orphan := false })
    (ht : s.composer.todo = [.list i w, .call k]) :
    ∃ t, exec .composerTransferCompletion s = .next t ∧
      besidesStatus t =
        besidesStatus
          (carryOn 15 (runCont k (setTodo [] { s with mem := writeLanes s.mem a .word w, port := none }))) := by
  have hl : writeLearnt a w s = { s with mem := writeLanes s.mem a .word w, port := none } := by
    unfold writeLearnt learnTransfer learnWrite
    dsimp only [portDone, memAfter]
    rw [hu]
    dsimp only
    rw [hfp]
  have hd : composerDone s =
      carryOn 15 (runCont k (setTodo [] { s with mem := writeLanes s.mem a .word w, port := none })) := by
    have e : learnTransfer (composerWrite a w) (portDone (composerWrite a w) s) =
        { s with mem := writeLanes s.mem a .word w, port := none } := hl
    unfold composerDone
    rw [hp]
    dsimp only
    rw [if_neg (by simp), e]
    dsimp only
    rw [ht]
    dsimp only
    rw [carryComposer_opDone (by exact ha)]
    exact carryOn_cont 15 k { s with mem := writeLanes s.mem a .word w, port := none }
  refine composer_next hp rfl hd ?_
  exact claimsJoined_outside (s := { s with mem := writeLanes s.mem a .word w, port := none })
    (by rw [outside_carryOn, outside_runCont]; rfl) hj

/-! ### The list opened -/

section
variable {u : SetupBlock} {s : State} (hu : s.setup.active = some u) (ha : s.composer.abortMark = false)
include hu ha

theorem carryOn_listOpened_clr (m : Nat) (hk : s.composer.keyCode = 0xCF#8) :
    carryOn (m + 1) (listOpened s) = listEnding u .complete .closing s := by
  unfold listOpened
  rw [if_neg (by simp [ha]), if_pos hk]
  exact carryOn_closingWrites m .complete .closing hu

theorem carryOn_listOpened_walk (m : Nat) {g : Field} {gs : List Field} (hk : s.composer.keyCode ≠ 0xCF#8)
    (hm : s.map.state = .current) (hg : s.liveFields = g :: gs) :
    carryOn (m + 1) (listOpened s) =
      awaiting (heldRangeOf s.map.table g) (.stepFirst .gather g.mark g.len)
        { s with composer.listPhase := .walking, composer.lastHandled := none } := by
  have hsel : selectField { s with composer.listPhase := .walking, composer.lastHandled := none } = some (some g) :=
    selectField_of_selects ⟨hm, by show some g = s.liveFields.head?; rw [hg]; rfl⟩
  unfold listOpened
  rw [if_neg (by simp [ha]), if_neg hk]
  unfold startWalk selectStep
  dsimp only
  rw [hsel]
  exact carryOn_post m _ _ (by exact hu)

theorem carryOn_listOpened_outside (m : Nat) (hk : s.composer.keyCode ≠ 0xCF#8) (hm : s.map.state ≠ .current) :
    carryOn (m + 1) (listOpened s) = listEnding u .truncated .closing { s with composer.lastHandled := none } := by
  have hsel : selectField { s with composer.listPhase := .walking, composer.lastHandled := none } = none :=
    selectField_outside (by exact hm)
  unfold listOpened
  rw [if_neg (by simp [ha]), if_neg hk]
  unfold startWalk selectStep
  dsimp only
  rw [hsel]
  exact carryOn_walkLimit_gather m (by exact hu)

end

/-! ### The statement -/

/-- Settles O40: the field taken, its entry, the entry's end, and the list opened. -/
theorem gatherWritesEntries : Obligations.GatherWritesEntries := by
  refine ⟨fun s u r k f h hm => ?_, fun s u a f hd hf => ?_, fun s u a w i size f hj hu hfp hi ha hf hp ht => ?_,
    fun s u a w hj hu hfp hi ha hp ht => ?_, gatheredChars_take,
    fun cs => ⟨packChars_length cs, fun j _ => packChars_getD cs j⟩⟩
  · obtain ⟨-, hu, hi, hfl, -, -⟩ := id h
    intro result takes held
    have hiff : gatherTakes (heldState r f s) f = true ↔ takes := gatherTakes_iff (heldState r f s) f
    have go {x y : State} (hx : gatherField (heldState r f s) = x) (hy : carryOn 15 x = y) : result y :=
      posting_goes h (by rw [stepMadeBy_runs hm, ← hy, ← hx]; rfl)
    have read (ht : takes) := gatherField_takes (s := heldState r f s) hu rfl (hiff.mpr ht)
    have empty (h0 : f.len = 0) : carryOn 15 (setTodo (readOps (formSize u) f ++ [.call .gatherRead])
        (clearBuffer (heldState r f s))) = carryOn 14 (gatherJudged (setTodo [] held)) := by
      rw [readOps_eq, cellReads, h0]
      exact carryOn_cont 14 .gatherRead (clearBuffer (heldState r f s))
    obtain ⟨hfits, hover⟩ := carryOn_gatherJudged (s := setTodo [] held) (u := u) (f := f) hu rfl 13
    have hchars : gatheredChars (wordsRead (setTodo [] held)) = [] := rfl
    rw [hchars, List.length_nil] at hfits hover
    refine ⟨fun ht hl => go (read ht) ?_, fun ht h0 hc => go (read ht) ?_, fun ht h0 hc => go (read ht) ?_,
      fun ht => go (gatherField_passes (s := heldState r f s) rfl (fun e => ht (hiff.mp e))) ?_⟩
    · exact carryOn_readOps 14 _ f _ hu hl
    · exact (empty h0).trans (hfits hc)
    · exact (empty h0).trans (hover hc)
    · exact (carryOn_nextStep 14 .gather f (s := heldState r f s) hu hi hfl rfl nofun).trans
        (walkOn_setTodo u .gather f [] _)
  · obtain ⟨t, ht, hb⟩ := read_runs hd
    obtain ⟨-, hu, -⟩ := hd
    obtain ⟨hfits, hover⟩ := carryOn_gatherJudged (s := setTodo [] (readTaken a s)) (u := u) (f := f) hu hf 14
    rw [wordsRead_readTaken] at hfits hover
    exact ⟨fun hc => ⟨t, ht, hb.trans (congrArg besidesStatus (hfits hc))⟩,
      fun hc => ⟨t, ht, hb.trans (congrArg besidesStatus (hover hc))⟩⟩
  · obtain ⟨t, hx, hb⟩ := list_runs hj hu hfp ha hp ht
    refine ⟨t, hx, hb.trans (congrArg besidesStatus ?_)⟩
    exact (carryOn_nextStep 14 .gather f
      (s := countEntry size (setTodo [] { s with mem := writeLanes s.mem a .word w, port := none })) hu hi
      (processorInFlight_none rfl) hf nofun).trans
        (walkOn_setTodo u .gather f []
          (countEntry size { s with mem := writeLanes s.mem a .word w, port := none }))
  · obtain ⟨t, hx, hb⟩ := list_runs hj hu hfp (.inl ha) hp ht
    intro written result
    have go {x : State} (hy : carryOn 15 (listOpened (setTodo [] written)) = x) : result x :=
      ⟨t, hx, hb.trans (congrArg besidesStatus hy)⟩
    exact ⟨fun hk => go (carryOn_listOpened_clr (s := setTodo [] written) hu ha 14 hk),
      fun g gs hk hm hg => go (carryOn_listOpened_walk (s := setTodo [] written) hu ha 14 hk hm hg),
      fun hk hm => go (carryOn_listOpened_outside (s := setTodo [] written) hu ha 14 hk hm)⟩

end Sys2Proof.Machine
end

section
/-! Memory stays in canonical form at every step, and the state at reset meets the invariants (R48, R200). -/

namespace Sys2Proof.Machine

/-- Settles O53: every move of a step keeps the canonical form. -/
theorem memoryStaysCanonical : Obligations.MemoryStaysCanonical :=
  fun _ _ hs h => step_keeps (P := memoryCanonical) (fun _ _ hm => memoryCanonical_move hm) h hs

/-! ### The state at reset -/

theorem mapFaithful_reset : mapFaithful State.reset :=
  ⟨⟨.nil, nofun⟩, ⟨nofun, nofun, fun _ => rfl⟩, ⟨by decide, .nil, nofun, fun _ => rfl, nofun⟩,
    ⟨nofun, nofun, nofun, nofun, nofun⟩, nofun⟩

theorem queueAgrees_reset : queueAgrees State.reset :=
  ⟨by decide, .inl rfl, by decide, .nil, by decide, .nil, by decide, by decide, by decide, rfl, fun _ => rfl⟩

theorem coldState_ends : settle (coldState State.reset) (coldEnded 0#4 (coldState State.reset)) = State.reset := rfl

/-- Settles O60: every invariant at reset by the reset values, then the two events of a cold reset. -/
theorem invariantsHoldAtReset : Obligations.InvariantsHoldAtReset :=
  ⟨mapFaithful_reset, Nat.zero_le _, rfl, rfl, nofun, queueAgrees_reset, coldState State.reset,
    execColdReset_asserts rfl, congrArg _ coldState_ends⟩

end Sys2Proof.Machine
end

section
/-! The causes, ATTN and the fairness count: what every operation can do to them, said once as a few moves (R67, R68, R184
to R188). -/

namespace Sys2Proof.Machine

/-- The fairness count, the pending causes, the seen set, the pulse, ATTN, and the setup whose enables it follows. Everything
else has its reset value. -/
def causePart (s : State) : State :=
  { State.reset with
    fairness := s.fairness, attn := s.attn
    report := { ReportUnit.cold with pending := s.report.pending, seen := s.report.seen, pulse := s.report.pulse }
    setup := { State.reset.setup with active := s.setup.active } }

/-- One change a command can make to this part. -/
inductive CauseMove : State → State → Prop
  /-- Nothing of the part changes. -/
  | calm {s t : State} (h : causePart t = causePart s) : CauseMove s t
  /-- A cause is offered (R184). -/
  | offered (c : Cause) (s : State) : CauseMove s (offer c s)
  /-- The cause word is read (R185). -/
  | read (s : State) : CauseMove s { s with report.seen := s.report.pending }
  /-- The cause word is written (R186). -/
  | cleared (v : Word) (s : State) : CauseMove s (clearCauses v s)
  /-- The running pulse ends (R188). -/
  | pulseEnd (s : State) : CauseMove s (endPulse s)
  /-- A setup becomes active (R188, R198). -/
  | switched (u : SetupBlock) (s : State) : CauseMove s (switchValues u s)
  /-- Warm reset (R201). -/
  | warm (s : State) : CauseMove s (warmValues s)
  /-- Cold reset (R200). -/
  | cold (s : State) : CauseMove s (coldState s)
  /-- A grant sets the fairness count (R68). -/
  | granted {s : State} (n : Nat) (h : n ≤ Config.fairnessLimit) : CauseMove s { s with fairness := n }

/-- Some moves, one after another. -/
abbrev CauseMoves : State → State → Prop := Relation.ReflTransGen CauseMove

theorem CauseMoves.calm {s t : State} (h : causePart t = causePart s) : CauseMoves s t := .single (.calm h)

theorem CauseMoves.calm_before {s t r : State} (h' : CauseMoves t r) (h : causePart t = causePart s) : CauseMoves s r :=
  .head (.calm h) h'

theorem CauseMoves.calm_after {s t r : State} (h : CauseMoves s t) (h' : causePart r = causePart t) : CauseMoves s r :=
  h.tail (.calm h')

theorem causes_offer (c : Cause) (s : State) : CauseMoves s (offer c s) := .single (.offered c s)

/-! ### What the shared operations leave of it -/

@[simp] theorem causePart_raiseError (c : ErrorCode) (s : State) : causePart (raiseError c s) = causePart s := by
  unfold raiseError; split <;> rfl
@[simp] theorem causePart_sendLock (s : State) : causePart (sendLock s) = causePart s := by
  unfold sendLock; split <;> rfl
@[simp] theorem causePart_unlockKeyboard (s : State) : causePart (unlockKeyboard s) = causePart s := by
  unfold unlockKeyboard; split <;> rfl
@[simp] theorem causePart_lockKeyboard (s : State) : causePart (lockKeyboard s) = causePart s := by
  unfold lockKeyboard; split <;> rfl
@[simp] theorem causePart_freeTokenSlot (t : Token) (s : State) : causePart (freeTokenSlot t s) = causePart s := by
  cases t <;> rfl
@[simp] theorem causePart_freeTokens (ts : List Token) (s : State) : causePart (freeTokens ts s) = causePart s := by
  induction ts generalizing s with
  | nil => rfl
  | cons t r ih => rw [freeTokens, ih, causePart_freeTokenSlot]
@[simp] theorem causePart_holdForGather (s : State) : causePart (holdForGather s) = causePart s := by
  unfold holdForGather; repeat' split
  all_goals rfl
@[simp] theorem causePart_openList (s : State) : causePart (openList s) = causePart s :=
  (causePart_holdForGather _).trans rfl
@[simp] theorem causePart_scanComputed (s : State) : causePart (scanComputed s) = causePart s := by
  unfold scanComputed; dsimp only; split <;> rfl
@[simp] theorem causePart_markModified (s : State) : causePart (markModified s) = causePart s := by
  unfold markModified; repeat' split
  all_goals rfl
@[simp] theorem causePart_beginOp (u : SetupBlock) (op : Op) (s : State) : causePart (beginOp u op s) = causePart s := by
  cases op <;> rfl
@[simp] theorem causePart_opDone (op : Op) (rest : List Op) (w : Word) (s : State) :
    causePart (opDone op rest w s) = causePart s := by
  cases op with
  | eraseCell p => unfold opDone; dsimp only; split <;> rfl
  | _ => rfl
@[simp] theorem causePart_countIfWhole (s : State) : causePart (countIfWhole s) = causePart s := by
  unfold countIfWhole; split <;> rfl
@[simp] theorem causePart_giveReady (o : Bool) (a : Answer) (s : State) : causePart (giveReady o a s) = causePart s := by
  unfold giveReady leaveHand; repeat' split
  all_goals rfl
@[simp] theorem causePart_watchApply (a : WordAddr) (l : Lanes) (v : Word) (s : State) :
    causePart (watchApply a l v s) = causePart s := by
  unfold watchApply requestApply requestApply.ask; repeat' split
  all_goals rfl
@[simp] theorem causePart_startRebuild (s : State) : causePart (startRebuild s) = causePart s := by
  rcases startRebuild_cases s with e | ⟨u, -, e⟩
  · rw [e]
  · rw [e]; rfl
@[simp] theorem causePart_claimScan (s : State) : causePart (claimScan s) = causePart s := by
  unfold claimScan; split <;> rfl
@[simp] theorem causePart_followWrite (p : Nat) (w : Word) (m : FieldMap) (s : State) :
    causePart (followWrite p w m s) = causePart s := by
  obtain ⟨h, e⟩ := followWrite_hand p w m s
  rw [e]; rfl
@[simp] theorem causePart_settle (s0 s1 : State) : causePart (settle s0 s1) = causePart s1 :=
  (congrArg causePart (besidesQueue_settle s0 s1) : causePart (besidesQueue (settle s0 s1)) = causePart (besidesQueue s1))

/-! ### The transfer in hand and the end of a work -/

theorem causes_takeIn (t : Transfer) (s : State) : CauseMoves s (takeIn t s) := by
  unfold takeIn carryDecision reportReadEffect
  cases decideTransfer s t with
  | hold | route | masked => exact .calm rfl
  | suppress => exact ((causes_offer .protect _).calm_before rfl).calm_after rfl
  | report i =>
    dsimp only
    split
    · exact .calm rfl
    · split
      · exact CauseMoves.calm_before (t := { s with inHand := none, answer := some (.word (reportValue i s)) })
          (.single (.read _)) rfl
      · exact .calm rfl

theorem causes_decideAnew (s : State) : CauseMoves s (decideAnew s) := by
  unfold decideAnew; repeat' split
  · exact .refl
  · exact .refl
  · exact causes_takeIn _ s
  · exact causes_takeIn _ s

theorem causes_decideHeld (s : State) : CauseMoves s (decideHeld s) := by
  unfold decideHeld; repeat' split
  iterate 3 exact .refl
  exact causes_takeIn _ s

theorem causes_takePosting (r : HeldRange) (s : State) : CauseMoves s (takePosting r s) :=
  (causes_decideAnew _).calm_before rfl

theorem causes_releaseRange (s : State) : CauseMoves s (releaseRange s) := by
  unfold releaseRange; repeat' split
  · exact .calm rfl
  · exact .calm rfl
  · exact (causes_takePosting _ _).calm_before rfl

theorem causes_takeOwedEmpty (s : State) : CauseMoves s (takeOwedEmpty s) := by
  unfold takeOwedEmpty; split
  · exact causes_takePosting _ s
  · exact .refl

theorem causes_completeDirective (c : Completion) (s : State) : CauseMoves s (completeDirective c s) := by
  unfold completeDirective; repeat' split
  · exact (causes_offer _ _).calm_before rfl
  · exact (causes_offer _ _).calm_before rfl
  all_goals exact .refl

theorem causes_endWork (s : State) : CauseMoves s (endWork s) := by
  have h (y : State) (hy : causePart y = causePart s) : CauseMoves s (idleComposer (releaseRange y)) :=
    ((causes_releaseRange y).calm_before hy).calm_after rfl
  unfold endWork; split
  · exact h _ (causePart_freeTokenSlot _ s)
  all_goals exact h _ rfl

theorem causes_refuse (c : ErrorCode) (s : State) : CauseMoves s (refuse c s) :=
  (causes_endWork _).calm_before (causePart_raiseError c s)

/-- A refusal with the cursor moved. -/
theorem causes_refuseAt (x : Nat) (c : ErrorCode) (s : State) : CauseMoves s (endWork (setCursor x (raiseError c s))) :=
  (causes_endWork _).calm_before (causePart_raiseError c s)

theorem causes_finishDirective (c : Completion) (s : State) : CauseMoves s (finishDirective c s) :=
  (causes_completeDirective c s).trans (causes_endWork _)

theorem causes_moved (x : Nat) (s : State) : CauseMoves s (endWork (setCursor x s)) :=
  (causes_endWork _).calm_before rfl

/-! ### Sends, walks and the return list -/

theorem causes_finishSend (s : State) : CauseMoves s (finishSend s) := by
  unfold finishSend; split
  · exact causes_endWork s
  · exact (causes_offer _ s).trans (causes_endWork _)

theorem causes_lockAndList (s : State) : CauseMoves s (lockAndList s) := by
  have h : causePart (insertOff (sendLock s)) = causePart s := causePart_sendLock s
  unfold lockAndList; dsimp only; split
  · exact .calm ((causePart_openList _).trans h)
  · exact (causes_finishSend _).calm_before h

theorem causes_listDone (l : ListState) (s : State) : CauseMoves s (listDone l s) := by
  have h : causePart { s with composer.listPhase := .closed } = causePart s := rfl
  unfold listDone; dsimp only; split
  · exact ((causes_finishDirective _ _).calm_before h).trans (causes_decideHeld _)
  · exact ((causes_finishSend _).calm_before h).trans (causes_decideHeld _)
  · exact (causes_decideHeld _).calm_before h
  · exact (causes_decideHeld _).calm_before h

theorem causes_walkLimit (w : Walk) (s : State) : CauseMoves s (walkLimit w s) := by
  cases w with
  | validate => exact causes_refuse _ s
  | gather => exact .calm rfl

theorem causes_walkEnd (w : Walk) (s : State) : CauseMoves s (walkEnd w s) := by
  cases w with
  | validate => exact causes_lockAndList s
  | gather => exact .calm rfl

theorem causes_selectStep (w : Walk) (s : State) : CauseMoves s (selectStep w s) := by
  unfold selectStep; split
  · exact causes_walkLimit w s
  · exact causes_walkEnd w s
  · exact .calm rfl

theorem causes_startWalk (w : Walk) (s : State) : CauseMoves s (startWalk w s) :=
  (causes_selectStep w _).calm_before rfl

theorem causes_nextStep (w : Walk) (s : State) : CauseMoves s (nextStep w s) := by
  unfold nextStep; split
  · exact causes_walkEnd w s
  · exact (causes_selectStep w _).calm_before rfl

theorem causes_validateField (s : State) : CauseMoves s (validateField s) := by
  unfold validateField; dsimp only; repeat' split
  · exact causes_nextStep _ s
  · exact causes_refuseAt _ _ s
  · exact .calm rfl
  · exact causes_nextStep _ s

theorem causes_validationJudged (s : State) : CauseMoves s (validationJudged s) := by
  unfold validationJudged; dsimp only; repeat' split
  · exact causes_refuseAt _ _ s
  · exact causes_refuseAt _ _ s
  · exact causes_nextStep _ s

theorem causes_gatherJudged (s : State) : CauseMoves s (gatherJudged s) := by
  unfold gatherJudged; dsimp only; split <;> exact .calm rfl

theorem causes_gatherField (s : State) : CauseMoves s (gatherField s) := by
  unfold gatherField; split
  · exact .calm rfl
  · exact causes_nextStep _ s

theorem causes_madeStep (w : Walk) (f : Field) (s : State) : CauseMoves s (madeStep w f s) := by
  cases w with
  | validate => exact (causes_validateField _).calm_before rfl
  | gather => exact (causes_gatherField _).calm_before rfl

theorem causes_stepTaken (w : Walk) (m : Option Nat) (l : Nat) (s : State) : CauseMoves s (stepTaken w m l s) := by
  unfold stepTaken; repeat' split
  · exact causes_walkLimit w s
  · exact .calm rfl
  · exact causes_madeStep w _ s
  · exact .calm rfl

theorem causes_stepUnderWhole (w : Walk) (s : State) : CauseMoves s (stepUnderWhole w s) := by
  unfold stepUnderWhole; split
  · exact causes_walkLimit w s
  · exact causes_walkEnd w s
  · exact .calm rfl

theorem causes_listOpened (s : State) : CauseMoves s (listOpened s) := by
  unfold listOpened; repeat' split
  · exact .calm rfl
  · exact .calm rfl
  · exact (causes_startWalk _ _).calm_before rfl

/-! ### The passes -/

theorem causes_erasePass (s : State) : CauseMoves s (erasePass s) := by
  have hr : CauseMoves s (erasePass.eraseRefused s) := by
    unfold erasePass.eraseRefused; split
    · exact causes_finishDirective _ s
    · exact causes_refuse _ s
    · exact .refl
    · exact .refl
  unfold erasePass; split
  · exact .calm rfl
  all_goals exact hr

theorem causes_eraseEnded (s : State) : CauseMoves s (eraseEnded s) := by
  unfold eraseEnded; dsimp only; repeat' split
  · exact (causes_finishDirective _ _).calm_before rfl
  · refine .trans (CauseMoves.calm ?_) ((causes_releaseRange _).trans (causes_lockAndList _))
    rfl
  · exact (causes_endWork _).calm_before rfl
  · exact (causes_endWork _).calm_before rfl
  all_goals exact .calm rfl

theorem causes_passEnded (s : State) : CauseMoves s (passEnded s) := by
  unfold passEnded; split
  · exact (causes_finishDirective _ _).calm_before (causePart_unlockKeyboard s)
  · exact causes_finishDirective _ s

theorem causes_cellStep (s : State) : CauseMoves s (cellStep s) := by
  unfold cellStep; split
  · exact .calm rfl
  · exact causes_passEnded s

theorem causes_startClearPass (s : State) : CauseMoves s (startClearPass s) := by
  unfold startClearPass; dsimp only; split
  · exact (causes_passEnded _).calm_before rfl
  · exact (causes_cellStep _).calm_before rfl

theorem causes_cellHeld (p : Nat) (s : State) : CauseMoves s (cellHeld p s) := by
  unfold cellHeld; repeat' split
  · exact .calm rfl
  · exact (causes_cellStep _).calm_before rfl
  · exact (causes_cellStep _).calm_before rfl

/-! ### Tokens on the held field -/

theorem causes_takeHold (s : State) : CauseMoves s (takeHold s) := by
  unfold takeHold; split
  · exact causes_refuse _ s
  · exact .calm rfl

theorem causes_exitComputed (k : Option Nat) (m : Bool) (n : ExitNext) (s : State) :
    CauseMoves s (exitComputed k m n s) := by
  unfold exitComputed; dsimp only; split
  · exact causes_refuseAt _ _ s
  · exact .calm rfl

theorem causes_exitSucceeded (n : ExitNext) (s : State) : CauseMoves s (exitSucceeded n s) := by
  cases n with
  | advance | move => exact causes_moved _ s
  | field => exact .calm rfl
  | send => exact (causes_releaseRange s).trans (causes_startWalk _ _)

theorem causes_heldCharacter (c : Byte) (s : State) : CauseMoves s (heldCharacter c s) := by
  unfold heldCharacter; dsimp only; repeat' split
  · exact causes_refuse _ s
  · exact causes_refuse _ s
  all_goals exact .calm rfl

theorem causes_insertJudged (c : Byte) (s : State) : CauseMoves s (insertJudged c s) := by
  unfold insertJudged; dsimp only; split
  · exact causes_refuse _ s
  · exact .calm rfl

theorem causes_characterDone (s : State) : CauseMoves s (characterDone s) := by
  unfold characterDone; dsimp only; split
  · exact .calm rfl
  · exact causes_moved _ s

theorem causes_heldDelete (s : State) : CauseMoves s (heldDelete s) := by
  unfold heldDelete; dsimp only; split
  · exact causes_refuse _ s
  · exact .calm rfl

theorem causes_heldErase (s : State) : CauseMoves s (heldErase s) := by
  unfold heldErase; dsimp only; split
  · exact causes_refuse _ s
  · exact .calm rfl

theorem causes_heldFieldExit (s : State) : CauseMoves s (heldFieldExit s) := by
  unfold heldFieldExit; dsimp only; split
  · exact causes_refuse _ s
  · exact .calm rfl

theorem causes_heldFieldMinus (s : State) : CauseMoves s (heldFieldMinus s) := by
  unfold heldFieldMinus; dsimp only; repeat' split
  · exact causes_refuse _ s
  · exact causes_refuse _ s
  · exact .calm rfl

theorem causes_heldMove (c : Byte) (s : State) : CauseMoves s (heldMove c s) := by
  unfold heldMove; dsimp only; split
  · exact .calm rfl
  · exact causes_moved _ s

theorem causes_heldSend (s : State) : CauseMoves s (heldSend s) := by
  unfold heldSend; split
  · exact .calm rfl
  · exact (causes_releaseRange s).trans (causes_startWalk _ _)

theorem causes_heldScan (i : Fin 4) (s : State) : CauseMoves s (heldScan i s) := by
  unfold heldScan rejectScan; dsimp only; repeat' split
  · exact (causes_offer .scanDrop s).trans ((causes_endWork _).calm_before rfl)
  all_goals exact .calm rfl

theorem causes_heldWork (s : State) : CauseMoves s (heldWork s) := by
  unfold heldWork; repeat' split
  · exact causes_heldScan _ s
  · exact causes_heldCharacter _ s
  · exact causes_heldDelete s
  · exact causes_heldErase s
  · exact causes_heldFieldExit s
  · exact causes_heldFieldMinus s
  · exact causes_heldSend s
  · exact causes_heldMove _ s
  all_goals exact .refl

theorem causes_holdTaken (m : Option Nat) (l : Nat) (w : Bool) (s : State) : CauseMoves s (holdTaken m l w s) := by
  unfold holdTaken; repeat' split
  · exact causes_refuse _ s
  · exact (causes_heldWork _).calm_before rfl
  · exact .calm rfl

theorem causes_holdUnderWhole (s : State) : CauseMoves s (holdUnderWhole s) := by
  unfold holdUnderWhole; split
  · exact causes_refuse _ s
  · exact .calm rfl

/-! ### The composer at its work -/

theorem causes_runCont (k : Cont) (s : State) : CauseMoves s (runCont k s) := by
  cases k with
  | holdFirst => exact causes_holdTaken _ _ _ s
  | holdWhole => exact causes_holdUnderWhole s
  | holdNarrow => exact causes_heldWork s
  | insertTested => exact causes_insertJudged _ s
  | setModified => exact .calm (causePart_markModified s)
  | charWritten => exact causes_characterDone s
  | exitRead => exact causes_exitComputed _ _ _ s
  | exitDone => exact causes_exitSucceeded _ s
  | moveTo => exact causes_moved _ s
  | finish => exact causes_endWork s
  | scanRead => exact .calm (causePart_scanComputed s)
  | eraseTaken => exact causes_erasePass s
  | eraseDone => exact causes_eraseEnded s
  | stepFirst => exact causes_stepTaken _ _ _ s
  | stepWhole => exact causes_stepUnderWhole _ s
  | stepMade => exact causes_madeStep _ _ s
  | validationRead => exact causes_validationJudged s
  | listOpened => exact causes_listOpened s
  | gatherRead => exact causes_gatherJudged s
  | entryWritten => exact (causes_nextStep _ _).calm_before rfl
  | listClosed => exact causes_listDone _ s
  | cellTaken => exact causes_cellHeld _ s
  | cellDone => exact (causes_cellStep _).calm_before rfl

theorem causes_carryOn (n : Nat) (s : State) : CauseMoves s (carryOn n s) := by
  induction n generalizing s with
  | zero => exact .refl
  | succ n ih =>
    unfold carryOn
    split
    · exact .refl
    · refine .trans (CauseMoves.calm ?_) ((causes_runCont _ _).trans (ih _))
      rfl
    · split
      · exact .calm (causePart_beginOp _ _ s)
      · exact .refl

theorem causes_resume (s : State) : CauseMoves s (resume s) := causes_carryOn 16 s

end Sys2Proof.Machine
end

section
/-! The fairness count stays within 8 and the seen set within the pending set at every step (R68, R166). -/

namespace Sys2Proof.Machine

/-! ### The end of an event -/

/-- An event makes the moves of its effect. -/
theorem causes_event {can : Bool} {f : State → State} {s t : State} (hf : can = true → CauseMoves s (f s))
    (h : event can f s = .next t) : CauseMoves s t := by
  cases can with
  | false => cases h; exact .refl
  | true => cases h; exact (hf rfl).calm_after (causePart_settle _ _)

theorem causes_event_calm {can : Bool} {f : State → State} {s t : State} (hf : causePart (f s) = causePart s)
    (h : event can f s = .next t) : CauseMoves s t := causes_event (fun _ => .calm hf) h

/-! ### The transfer path -/

/-- A grant leaves the fairness count at most 8: it rises only from below (R67, R68). -/
theorem causes_portGrant (s : State) : CauseMoves s (portGrant s) := by
  have grant {t : State} (n : Nat) (hn : n ≤ Config.fairnessLimit) (ht : causePart t = causePart { s with fairness := n }) :
      CauseMoves s t := CauseMoves.calm_after (.single (.granted n hn)) ht
  have hi : CauseMoves s (grantInternal s) := by
    unfold grantInternal; repeat' split
    iterate 3 exact grant 0 (Nat.zero_le _) rfl
    exact .refl
  unfold portGrant
  split
  · split
    next hf =>
      refine grant _ ?_ rfl
      simp only [processorFirst, Bool.or_eq_true, decide_eq_true_eq, Option.isNone_iff_eq_none] at hf
      show (if (internalClaim s).isSome then s.fairness + 1 else 0) ≤ _
      split
      next h =>
        rcases hf with hf | hf
        · omega
        · rw [hf] at h; cases h
      next => exact Nat.zero_le _
    next => exact hi
  · exact hi

theorem causes_rebuildEnded (s : State) : CauseMoves s (rebuildEnded s) := by
  have h : CauseMoves s (pauseLeft s) := by
    unfold pauseLeft; split
    · exact (causes_completeDirective _ s).calm_after rfl
    all_goals exact .calm rfl
  exact h.trans (causes_decideHeld _)

theorem causes_enterLimit (s : State) : CauseMoves s (enterLimit s) := (causes_offer _ _).calm_before rfl

theorem causes_rebuildLimit (s : State) : CauseMoves s (rebuildLimit s) :=
  CauseMoves.calm_before (.trans (causes_enterLimit _) (causes_rebuildEnded _)) rfl

theorem causes_upkeep (p : Nat) (w : Word) (s : State) : CauseMoves s (upkeep p w s) := by
  unfold upkeep; repeat' split
  · exact .refl
  · exact .refl
  · exact .calm (causePart_followWrite _ _ _ s)
  · exact causes_enterLimit s
  · exact .calm rfl
  · exact causes_rebuildLimit s
  · exact .refl

theorem causes_learnTransfer (t : PortTransfer) (s : State) : CauseMoves s (learnTransfer t s) := by
  rcases learnTransfer_cases t s with ⟨e, -⟩ | ⟨u, p, -, -, e⟩ <;> rw [e]
  exact causes_upkeep p _ s

theorem causes_reportWrite (i : Fin 32) (v : Word) (s : State) : CauseMoves s (reportWrite i v s) := by
  have hd : CauseMoves s (directiveWrite v s) := by
    have ha : CauseMoves s (directiveWrite.acceptDirective v s) := by
      unfold directiveWrite.acceptDirective; dsimp only; split
      · exact .calm rfl
      · exact (causes_offer _ _).calm_before rfl
    unfold directiveWrite; split
    · exact .calm rfl
    · exact .calm rfl
    · exact ha
    · exact ha
  have hc (c : Counter) : CauseMoves s (reportWrite.clearIf v s c) := by
    unfold reportWrite.clearIf; split <;> exact .calm rfl
  unfold reportWrite; repeat' split
  · exact hd
  · exact .calm rfl
  iterate 5 exact hc _
  · exact .single (.cleared v s)
  · exact .refl

/-- A processor transfer completes: upkeep, the report unit and the apply-word watch, then the posting owed (R52, R65). -/
theorem causes_processorDone (i : Option (Fin 32)) (m o : Bool) (t : PortTransfer) (s : State) :
    CauseMoves s (processorDone i m o t s) := by
  have tell (y : State) : CauseMoves y (tellBlocks i t y) := by
    have hl := causes_learnTransfer t y
    unfold tellBlocks
    unfold learnTransfer at hl
    cases hop : t.op with
    | read => exact .refl
    | write l v =>
      rw [hop] at hl
      have hh (z : State) : CauseMoves z (handReport i v z) := by
        cases i with
        | none => exact .refl
        | some i => exact causes_reportWrite i v z
      exact (hl.trans (hh _)).tail (.calm (causePart_watchApply _ _ _ _))
  exact CauseMoves.calm_before (.trans (tell _) (causes_takeOwedEmpty _)) (causePart_giveReady o _ (portDone t s))

theorem causes_transferDone (s : State) : CauseMoves s (transferDone s) := by
  unfold transferDone; split
  · exact .refl
  · split
    · exact .calm rfl
    · split
      · exact causes_processorDone _ _ _ _ s
      · exact causes_processorDone _ _ _ _ s
      all_goals exact .refl

theorem causePart_mergeReadDone (s : State) : causePart (mergeReadDone s) = causePart s := by
  unfold mergeReadDone; repeat' split
  all_goals rfl

theorem causes_postingTaken (s : State) : CauseMoves s (postingTaken s) := by
  unfold postingTaken; split
  · exact .refl
  · dsimp only
    have hp (r : HeldRange) : CauseMoves s (takePosting r s) := causes_takePosting r s
    split
    · exact (hp _).trans ((causes_resume _).calm_before rfl)
    · exact hp _

theorem causes_wordWriteRow {i : Option (Fin 32)} {a : WordAddr} {cls : AccessClass} {v : Word} {s t : State}
    (h : wordWriteRow i a cls v s = .next t) : CauseMoves s t := by
  unfold wordWriteRow at h
  dsimp only at h
  split at h
  · exact causes_event (fun _ => causes_transferDone s) h
  · refine causes_event (fun _ => ?_) h
    exact ((causes_takeIn _ s).trans (causes_portGrant _)).trans (causes_transferDone _)

theorem causes_reportWriteRow {i : Fin 32} {cls : AccessClass} {v : Word} {s t : State}
    (h : reportWriteRow i cls v s = .next t) : CauseMoves s t := by
  unfold reportWriteRow at h
  split at h
  · cases h; exact .refl
  · exact causes_wordWriteRow h

theorem causes_readReport {i : Fin 32} {cls : AccessClass} {l : Lanes} {s t : State}
    (h : readReport i cls l s = .next t) : CauseMoves s t := by
  unfold readReport at h
  split at h
  · cases h; exact .refl
  · exact causes_event (fun _ => causes_takeIn _ s) h

/-! ### The composer's transfers, the setup unit, the scan and the resets -/

theorem causes_composerDone (s : State) : CauseMoves s (composerDone s) := by
  unfold composerDone; split
  · exact .refl
  next t _ =>
    have hl : CauseMoves s (learnTransfer t (portDone t s)) := (causes_learnTransfer t _).calm_before rfl
    dsimp only
    split
    · exact .calm rfl
    · split
      · exact hl
      next op rest _ =>
        refine hl.trans ?_
        unfold carryComposer
        split
        · exact (causes_resume _).calm_before ((causePart_countIfWhole _).trans (causePart_opDone op rest _ _))
        · exact (causes_resume _).calm_before (causePart_opDone op rest _ _)

theorem causes_setupReadDone (s : State) : CauseMoves s (setupReadDone s) := by
  have hj (y : State) : CauseMoves y (judgeSetup y) := by
    have hs (u : SetupBlock) : CauseMoves y (switchEvent u y) :=
      (CauseMoves.calm_after (.single (.switched u y)) (causePart_startRebuild _)).trans (causes_decideAnew _)
    unfold judgeSetup; dsimp only; split
    · exact (hs _).calm_after rfl
    · exact .calm rfl
  unfold setupReadDone; split
  · exact .refl
  · dsimp only; repeat' split
    · exact .calm rfl
    · exact .calm rfl
    · exact (hj _).calm_before rfl

theorem causes_resultDone (s : State) : CauseMoves s (resultDone s) := by
  unfold resultDone; split
  · exact .refl
  next t _ =>
    have hr : causePart (applyRefused (portDone t s)) = causePart s := by
      unfold applyRefused leavePause; split <;> rfl
    dsimp only; repeat' split
    · exact .calm rfl
    · exact (causes_offer _ _).calm_before rfl
    · exact (causes_offer _ _).calm_before hr

theorem causes_scanReadDone (s : State) : CauseMoves s (scanReadDone s) := by
  have ha (y : State) : CauseMoves y (scanAdvanced y) := by
    unfold scanAdvanced; split
    · exact (causes_rebuildEnded _).calm_before rfl
    · exact .calm (causePart_claimScan y)
  have hw (w : Word) (y : State) : CauseMoves y (scanWord w y) := by
    unfold scanWord; repeat' split
    · exact causes_rebuildLimit y
    · exact (ha _).calm_before rfl
    · exact (ha _).calm_before rfl
  unfold scanReadDone; split
  · exact .refl
  · dsimp only; repeat' split
    · exact .calm rfl
    · exact (hw _ _).calm_before rfl
    · exact .calm rfl

theorem causePart_statusDone (s : State) : causePart (statusDone s) = causePart s := by
  unfold statusDone; split
  · rfl
  · dsimp only; repeat' split
    · rfl
    · rfl
    · rw [claimStatus_eq]; rfl

theorem causePart_resultWordDone (s : State) : causePart (resultWordDone s) = causePart s := by
  unfold resultWordDone; split
  · rfl
  · dsimp only; split <;> rfl

theorem causes_warmReset (s : State) : CauseMoves s (abortNow (warmValues s)) := by
  obtain ⟨ph, todo, c, e, -⟩ := abortNow_form (warmValues s)
  rw [e]
  exact CauseMoves.calm_after (.single (.warm s)) rfl

/-! ### The lines, the timer and the queue -/

theorem causes_dropScan (i : Fin 4) (s : State) : CauseMoves s (dropScan i s) :=
  CauseMoves.calm_after (t := offer .scanDrop (freeSlot i s)) ((causes_offer _ _).calm_before rfl) rfl

theorem causes_endScan (w : Word) (s : State) : CauseMoves s (endScan w s) := by
  unfold endScan judgeScan acceptScan; dsimp only; repeat' split
  · exact .calm rfl
  · exact .calm rfl
  · exact (causes_dropScan _ _).calm_before rfl
  · exact .calm rfl

theorem causes_collectFrame (fr : FrameResult) (s : State) : CauseMoves s (collectFrame fr s) := by
  have ht : CauseMoves s (terminateScan s) := (causes_endScan _ _).calm_before rfl
  have hl : CauseMoves s (armGap (count .lost (offer .loss { s with collecting := .losing }))) :=
    CauseMoves.calm_after (t := offer .loss { s with collecting := .losing }) ((causes_offer _ _).calm_before rfl) rfl
  unfold collectFrame startScan; repeat' split
  · exact .refl
  · exact .calm rfl
  · exact hl
  · exact ht
  · exact .calm rfl
  · exact ht
  · exact .calm rfl

theorem causes_lineError (fr : FrameResult) (s : State) : CauseMoves s (lineError fr s) := by
  unfold lineError; split
  · exact (causes_offer .lineError s).calm_after rfl
  · exact .refl

theorem causes_keyboardResult (fr : FrameResult) (s : State) : CauseMoves s (keyboardResult fr s) := by
  unfold keyboardResult; repeat' split
  · exact causes_lineError fr s
  · exact .refl
  · exact (causes_offer .loss s).calm_after rfl
  · exact .calm rfl

theorem causes_scannerResult (fr : FrameResult) (s : State) : CauseMoves s (scannerResult fr s) :=
  (causes_lineError fr s).trans (causes_collectFrame fr _)

theorem causePart_takeFormat (s : State) : causePart (takeFormat s) = causePart s := by
  unfold takeFormat; split <;> rfl

theorem causePart_formatAtIdle (b : RxState) (s : State) : causePart (formatAtIdle b s) = causePart s := by
  unfold formatAtIdle; split
  · exact causePart_takeFormat s
  · rfl

theorem causes_scannerCompletes (fr : FrameResult) (s : State) : CauseMoves s (scannerCompletes fr s) := by
  have hb : causePart (beforeScannerFrame s) = causePart s := by
    unfold beforeScannerFrame; split
    · exact causePart_takeFormat s
    · rfl
  exact (causes_scannerResult fr _).calm_before ((causePart_formatAtIdle _ _).trans hb)

theorem causes_lineSampled (l : Line) (m : Bool) (s : State) : CauseMoves s (lineSampled l m s) := by
  cases l with
  | kbd =>
    show CauseMoves s (keyboardSample m s)
    unfold keyboardSample; dsimp only; split
    · exact (causes_keyboardResult _ _).calm_before rfl
    · exact .calm rfl
  | scn =>
    show CauseMoves s (scannerSample m s)
    unfold scannerSample; dsimp only; split
    · exact (causes_scannerResult _ _).calm_before (causePart_formatAtIdle _ _)
    · exact .calm (causePart_formatAtIdle _ _)

theorem causes_gapExpiry (s : State) : CauseMoves s (gapExpiry s) := (causes_endScan _ _).calm_before rfl

theorem causes_tick (s : State) : CauseMoves s (tick s) := by
  have hg (y : State) : CauseMoves y (gapIfDue y) := by
    unfold gapIfDue; split
    · exact causes_gapExpiry y
    · exact .refl
  have hh (y : State) : causePart (holdoffIfDue y) = causePart y := by
    unfold holdoffIfDue; split <;> rfl
  have ht : causePart (toneIfDue s) = causePart s := by
    unfold toneIfDue; split <;> rfl
  have he (y : State) : CauseMoves y (scanExpiries y) := by
    unfold scanExpiries; dsimp only; repeat' split
    · exact (hg _).calm_before (hh _)
    · exact CauseMoves.calm_before (.tail (hg _) (.calm (hh _))) rfl
    · exact (hg y).calm_after (hh _)
  exact ((he _).calm_before ht).calm_after rfl

theorem causes_headVerdict (s : State) : CauseMoves s (headVerdict s) := by
  have ht (t : Token) (rest : List Token) : CauseMoves s (takeToken t rest s) := by
    have hs (y : State) : causePart (takeSlot t y) = causePart y := by cases t <;> rfl
    have hn (y : State) : causePart (noteSend t y) = causePart y := by
      unfold noteSend; repeat' split
      all_goals rfl
    unfold takeToken; dsimp only; split
    · exact (causes_refuse _ _).calm_before ((hn _).trans (hs _))
    · exact .calm ((hn _).trans (hs _))
  have hd (t : Token) (rest : List Token) : CauseMoves s (discardToken t rest s) :=
    .calm (causePart_freeTokenSlot t { s with queue := rest })
  unfold headVerdict; repeat' split
  · exact .refl
  · exact ht _ _
  · exact .refl
  · exact hd _ _
  · exact .calm rfl
  · exact hd _ _

/-! ### The rows of tokens and directives -/

theorem causes_tokenRow {p : Token → Bool} {f : State → State} {s t : State} (hf : ∀ y, CauseMoves y (f y))
    (h : tokenRow p f s = .next t) : CauseMoves s t :=
  causes_event (f := fun s => f { s with composer.begun := true }) (fun _ => (hf _).calm_before rfl) h

theorem causes_directiveRow {d : Directive} {f : State → State} {s t : State} (hf : ∀ y, CauseMoves y (f y))
    (h : directiveRow d f s = .next t) : CauseMoves s t :=
  causes_event (f := fun s => f (takeDirective d s)) (fun _ => (hf _).calm_before rfl) h

theorem causes_beginMove (c : Byte) (s : State) : CauseMoves s (beginMove c s) := by
  unfold beginMove; dsimp only; split
  · exact (causes_takeHold s).trans (causes_resume _)
  · exact causes_moved _ s

theorem causes_backspace (s : State) : CauseMoves s (backspace s) := by
  unfold backspace; repeat' split
  · exact causes_moved _ s
  · exact causes_endWork s
  · exact causes_endWork s

theorem causes_beginHold (s : State) : CauseMoves s (beginHold s) := (causes_takeHold s).trans (causes_resume _)

theorem causes_beginErase (s : State) : CauseMoves s (beginErase s) := (causes_resume _).calm_before rfl

theorem causes_beginSend (s : State) : CauseMoves s (beginSend s) := by
  unfold beginSend
  refine Relation.ReflTransGen.trans ?_ (causes_resume _)
  repeat' split
  · exact causes_takeHold s
  · exact causes_startWalk _ s
  · exact causes_startWalk _ s

theorem causes_runUnlock (s : State) : CauseMoves s (runUnlock s) := by
  have hu : CauseMoves s (runUnlock.unlock s) := by
    unfold runUnlock.unlock; split
    · exact (causes_startClearPass s).trans (causes_resume _)
    · exact (causes_finishDirective _ _).calm_before (causePart_unlockKeyboard s)
  unfold runUnlock; split
  · exact causes_finishDirective _ s
  · exact hu
  · exact hu

theorem causes_placeCursor (s : State) : CauseMoves s (placeCursor s) := by
  unfold placeCursor; split
  · exact causes_finishDirective _ s
  · exact (causes_finishDirective _ _).calm_before rfl

theorem causes_gatherFields (s : State) : CauseMoves s (gatherFields s) := by
  unfold gatherFields; dsimp only; split
  · exact (causes_finishDirective _ _).calm_before rfl
  · exact (causes_resume _).calm_before (causePart_openList _)

theorem causes_resetModified (s : State) : CauseMoves s (resetModified s) := by
  unfold resetModified; split
  · exact causes_finishDirective _ s
  · exact (causes_startClearPass s).trans (causes_resume _)

theorem causes_clearInput (s : State) : CauseMoves s (clearInput s) := by
  unfold clearInput; split
  · exact causes_finishDirective _ s
  · exact (causes_resume _).calm_before rfl

theorem causes_flushQueue (s : State) : CauseMoves s (flushQueue s) :=
  (causes_finishDirective _ _).calm_before (causePart_freeTokens s.queue s)

/-! ### Every command -/

/-- Every command's effect on the part is some moves. -/
theorem causes_exec {c : Instr} {s t : State} (h : exec c s = .next t) : CauseMoves s t := by
  cases c with
  | coldReset => cases h; split <;> [exact .refl; exact .single (.cold s)]
  | coldResetEnd => exact causes_event_calm rfl h
  | warmReset =>
    exact causes_event (can := true) (f := fun s => abortNow (warmValues s)) (fun _ => causes_warmReset s) h
  | processorTransfer => exact causes_event (fun _ => causes_takeIn _ s) h
  | memoryPortGrant => exact causes_event (fun _ => causes_portGrant s) h
  | processorTransferCompletion => exact causes_event (fun _ => causes_transferDone s) h
  | mergeReadCompletion => exact causes_event_calm (causePart_mergeReadDone s) h
  | heldRangePosting => exact causes_event (fun _ => causes_postingTaken s) h
  | readStateWord | readCauseWord => exact causes_readReport h
  | directiveIntake | unknownDirective | writeOperand | clearCounter | clearCauses | reportWordWrite =>
    exact causes_reportWriteRow h
  | applyRequest cls v =>
    change (if s.coldAsserted then _ else _) = _ at h
    split at h
    · cases h; exact .refl
    · exact causes_wordWriteRow h
  | applyTaken => exact causes_event_calm rfl h
  | setupReadCompletion => exact causes_event (fun _ => causes_setupReadDone s) h
  | resultWordWriteCompletion => exact causes_event_calm (causePart_resultWordDone s) h
  | resultEvent => exact causes_event (fun _ => causes_resultDone s) h
  | scanReadCompletion => exact causes_event (fun _ => causes_scanReadDone s) h
  | keyboardFrame => exact causes_event (f := keyboardCompletes _) (fun _ => (causes_keyboardResult _ _).calm_before rfl) h
  | scannerFrame => exact causes_event (fun _ => causes_scannerCompletes _ s) h
  | gapCompareExpiry => exact causes_event (fun _ => causes_gapExpiry s) h
  | holdoffCompareExpiry | toneCompareExpiry => exact causes_event_calm rfl h
  | headVerdict => exact causes_event (fun _ => causes_headVerdict s) h
  | cur | cul | cuu | cud => exact causes_tokenRow (fun y => causes_moved _ y) h
  | hom | tab | btb | nln => exact causes_tokenRow (causes_beginMove _) h
  | bsp => exact causes_tokenRow causes_backspace h
  | ins =>
    exact causes_tokenRow (f := fun y => endWork { y with composer.insertMode := !y.composer.insertMode })
      (fun _ => (causes_endWork _).calm_before rfl) h
  | rst => exact causes_tokenRow (f := fun y => endWork (insertOff y)) (fun _ => (causes_endWork _).calm_before rfl) h
  | dataCharacter | del | eef | fex | fmn | scanToken => exact causes_tokenRow causes_beginHold h
  | ein | clr => exact causes_tokenRow causes_beginErase h
  | ent | f1ToF12 => exact causes_tokenRow causes_beginSend h
  | composerTransferCompletion => exact causes_event (fun _ => causes_composerDone s) h
  | unlk => exact causes_directiveRow causes_runUnlock h
  | lock =>
    exact causes_directiveRow (f := fun y => finishDirective .done (lockKeyboard y))
      (fun y => (causes_finishDirective _ _).calm_before (causePart_lockKeyboard y)) h
  | plcr => exact causes_directiveRow causes_placeCursor h
  | gmod | gunp => exact causes_directiveRow causes_gatherFields h
  | rmod => exact causes_directiveRow causes_resetModified h
  | clin => exact causes_directiveRow causes_clearInput h
  | rbld => exact causes_directiveRow (f := rebuildMap) (fun _ => .calm ((causePart_startRebuild _).trans rfl)) h
  | flsh => exact causes_directiveRow causes_flushQueue h
  | statusWriteCompletion => exact causes_event_calm (causePart_statusDone s) h
  | attnPulseEnd => exact causes_event (fun _ => .single (.pulseEnd s)) h
  | lineSample => exact causes_event (fun _ => causes_lineSampled _ _ s) h
  | keyingTimerTick => exact causes_event (fun _ => causes_tick s) h

/-- What every move keeps of the causes and the fairness count, every step keeps. -/
theorem step_keeps_causes {P : State → Prop} (hP : ∀ s t, CauseMove s t → P s → P t) {s t : State}
    (h : step s = .next t) (hs : P s) : P t := by
  have hm : CauseMoves s t := by
    unfold step at h
    split at h
    · cases h; exact .refl
    next rest _ => exact (causes_exec h).calm_before rfl
  clear h
  induction hm with
  | refl => exact hs
  | tail _ hm ih => exact hP _ _ hm ih

/-! ### The two bounds -/

theorem fairnessBounded_move {s t : State} (hm : CauseMove s t) (h : fairnessBounded s) : fairnessBounded t := by
  cases hm with
  | calm e =>
    have hf : t.fairness = s.fairness := congrArg (fun y => y.fairness) e
    unfold fairnessBounded
    rw [hf]
    exact h
  | switched u => obtain ⟨f, p, e⟩ := switchValues_format u s; rw [e]; exact h
  | warm | cold => exact Nat.zero_le _
  | granted n hn => exact hn
  | offered | read | cleared | pulseEnd => exact h

/-- A set joins the pending set and leaves the seen set (R184). -/
theorem seen_of_offer {p q b : Byte} (h : q &&& ~~~p = 0#8) : (q &&& ~~~b) &&& ~~~(p ||| b) = 0#8 := by
  apply BitVec.eq_of_getLsbD_eq
  intro i hi
  have e := congrArg (·.getLsbD i) h
  simp only [BitVec.getLsbD_and, BitVec.getLsbD_not, BitVec.getLsbD_or, BitVec.getLsbD_zero, hi, decide_true,
    Bool.true_and] at e ⊢
  revert e
  generalize q.getLsbD i = x, p.getLsbD i = y, b.getLsbD i = z
  revert x y z
  decide

theorem seenWithinPending_move {s t : State} (hm : CauseMove s t) (h : seenWithinPending s) : seenWithinPending t := by
  cases hm with
  | calm e =>
    have hs : t.report.seen = s.report.seen := congrArg (fun y => y.report.seen) e
    have hp : t.report.pending = s.report.pending := congrArg (fun y => y.report.pending) e
    unfold seenWithinPending
    rw [hs, hp]
    exact h
  | offered c => exact seen_of_offer h
  | read => exact BitVec.and_not_self _
  | cleared | warm | cold => exact BitVec.zero_and
  | switched u => obtain ⟨f, p, e⟩ := switchValues_format u s; rw [e]; exact h
  | pulseEnd | granted => exact h

/-- Settles O54: every move of a step keeps both bounds. -/
theorem fairnessAndSeenSetBounded : Obligations.FairnessAndSeenSetBounded := fun _ _ hf hs h =>
  ⟨step_keeps_causes (P := fairnessBounded) (fun _ _ => fairnessBounded_move) h hf,
    step_keeps_causes (P := seenWithinPending) (fun _ _ => seenWithinPending_move) h hs⟩

end Sys2Proof.Machine
end

section
/-! The arbiter's grant (R67, R68), and a processor transfer decided at its arrival: what passes and waits, what is
suppressed, what is answered without memory (R51, R52, R54 to R65). -/

namespace Sys2Proof.Machine

/-! ### The grant -/

theorem internalClaim_none (s : State) :
    internalClaim s = none ↔ s.setupClaim = none ∧ s.reportClaim = none ∧ s.composerClaim = none := by
  unfold internalClaim
  cases s.setupClaim <;> cases s.reportClaim <;> simp

theorem processorClaim_waiting {s : State} {tr : Transfer} {r : Route} (h : s.inHand = some ⟨tr, .waiting r⟩) :
    processorClaim s = some (tr, r) := by
  simp [processorClaim, h]

theorem processorClaim_none {s : State} (h : ∀ tr r, s.inHand ≠ some ⟨tr, .waiting r⟩) : processorClaim s = none := by
  unfold processorClaim
  split
  · rfl
  next x hx =>
    obtain ⟨tr, st⟩ := x
    cases st with
    | waiting r => exact absurd hx (h tr r)
    | held | granted => rfl

/-- A grant on a free port, as an event. -/
theorem grant_runs {s x : State} (hj : claimsJoined s) (hp : s.port = none)
    (hw : (processorClaim s).isSome = true ∨ internalClaim s ≠ none) (hx : portGrant s = x)
    (hq : x.claimOrder = s.claimOrder ∧ x.queue = s.queue) :
    ∃ t, exec .memoryPortGrant s = .next t ∧ besidesStatus t = besidesStatus x := by
  subst hx
  refine event_effect (grantDue s) portGrant s ?_ (claimsJoined_of_queue hj hq.1 hq.2)
  rcases hw with hw | hw <;> simp [grantDue, hp, hw, Option.isSome_iff_ne_none]

/-- The grant goes to the internal claimants when the processor does not wait, or has been granted eight times while one
waited (R67). -/
theorem portGrant_internal {s : State} (hc : internalClaim s ≠ none)
    (h : ((∃ tr r, s.inHand = some ⟨tr, .waiting r⟩) ∧ 8 ≤ s.fairness) ∨ ∀ tr r, s.inHand ≠ some ⟨tr, .waiting r⟩) :
    portGrant s = grantInternal s := by
  unfold portGrant
  rcases h with ⟨⟨tr, r, hi⟩, hf⟩ | h
  · rw [processorClaim_waiting hi]
    have hlim : ¬ s.fairness < Config.fairnessLimit := Nat.not_lt.mpr hf
    have hn : processorFirst s = false := by
      rw [processorFirst, decide_eq_false hlim]
      simpa [Option.isSome_iff_ne_none] using hc
    simp [hn]
  · rw [processorClaim_none h]

/-- Settles O10: the processor's grant, then the three internal claimants by rank. -/
theorem grantFollowsRankAndFairness : Obligations.GrantFollowsRankAndFairness := by
  intro s hj hp
  refine ⟨fun tr r hi hf => ?_, fun h c => ⟨fun hc => ?_, fun h1 hc => ?_, fun h1 h2 hc => ?_⟩⟩
  · have hfirst : processorFirst s = true := by
      rw [← internalClaim_none] at hf
      rw [processorFirst, Bool.or_eq_true, decide_eq_true_eq, Option.isNone_iff_eq_none]
      exact hf
    have hcl := processorClaim_waiting hi
    refine grant_runs hj hp (.inl (by simp [hcl])) ?_ ⟨rfl, rfl⟩
    unfold portGrant grantProcessor
    rw [hcl]
    simp only [hfirst, if_true, ← internalClaim_none]
    cases internalClaim s <;> simp
  · have hn : internalClaim s ≠ none := fun e => by rw [((internalClaim_none s).mp e).1] at hc; cases hc
    refine grant_runs hj hp (.inr hn) ((portGrant_internal hn h).trans ?_) ⟨rfl, rfl⟩
    simp [grantInternal, hc]
  · have hn : internalClaim s ≠ none := fun e => by rw [((internalClaim_none s).mp e).2.1] at hc; cases hc
    obtain ⟨t, ht, hb⟩ := grant_runs (x := { s with port := some c, reportClaim := none, fairness := 0 }) hj hp (.inr hn)
      ((portGrant_internal hn h).trans (by simp [grantInternal, h1, hc])) ⟨rfl, rfl⟩
    exact ⟨t, ht, hb⟩
  · have hn : internalClaim s ≠ none := fun e => by rw [((internalClaim_none s).mp e).2.2] at hc; cases hc
    refine grant_runs hj hp (.inr hn) ((portGrant_internal hn h).trans ?_) ⟨rfl, rfl⟩
    simp [grantInternal, h1, h2, hc]

/-! ### The decision -/

/-- A transfer that arrives is decided and carried in one event (R48, R52). -/
theorem arrival_runs {tr : Transfer} {s : State} {d : Decision} (hj : claimsJoined s) (hi : s.inHand = none)
    (hd : decideTransfer s tr = d) :
    ∃ t, exec (.processorTransfer tr) s = .next t ∧ besidesStatus t = besidesStatus (carryDecision tr d s) := by
  subst hd
  exact event_effect s.inHand.isNone (takeIn tr) s (by simp [hi]) (claimsJoined_takeIn tr hj)

theorem isNormal_iff (c : AccessClass) : isNormal c = true ↔ c = .nd ∨ c = .nf := by
  cases c <;> simp [isNormal]

/-- With no setup active every transfer passes (R71). -/
theorem decideTransfer_unset {s : State} (h : s.setup.active = none) (t : Transfer) :
    decideTransfer s t = .route (.pass none) := by
  simp [decideTransfer, h]

/-- Past the held range and the gather's hold the deciding window acts (R52 test 3). -/
theorem decideTransfer_window {s : State} {u : SetupBlock} {t : Transfer} (hc : s.coldAsserted = false)
    (hu : s.setup.active = some u) (hr : inHeldRange u s t.addr = false) (hg : inGatherHold u s t = false) :
    decideTransfer s t = windowAction u s t := by
  simp [decideTransfer, hc, hu, hr, hg]

theorem inGatherHold_read {u : SetupBlock} {s : State} {t : Transfer} (h : isWrite t = false) :
    inGatherHold u s t = false := by
  simp [inGatherHold, h]

/-- The route of a transfer that passes: as issued, but for a byte write in the form area (R61). -/
theorem passOrMerge_eq (u : SetupBlock) (t : Transfer) :
    passOrMerge u t =
      .route (if isWrite t = true ∧ t.lanes ≠ .word ∧ formPos u t.addr ≠ none then .merge else .pass none) := by
  unfold passOrMerge
  cases t.lanes <;> cases formPos u t.addr <;> cases isWrite t <;> rfl

theorem passOrMerge_read {u : SetupBlock} {t : Transfer} (h : isWrite t = false) :
    passOrMerge u t = .route (.pass none) := by
  simp [passOrMerge_eq, h]

/-! ### The deciding window -/

section
variable {u : SetupBlock} {s : State} {t : Transfer} {w : Nat}

theorem windowAction_none (h : decidingWindow u t = none) : windowAction u s t = passOrMerge u t := by
  simp [windowAction, h]

theorem windowAction_screen_write (h : decidingWindow u t = some w) (hk : windowKind u w = .screen)
    (hw : isWrite t = true) :
    windowAction u s t = if enforceOn u && isNormal t.cls then enforcedWrite u s t else passOrMerge u t := by
  simp [windowAction, h, hk, hw]

theorem windowAction_screen_read (h : decidingWindow u t = some w) (hk : windowKind u w = .screen)
    (hw : isWrite t = false) :
    windowAction u s t = if maskingOn u && t.cls == .nd then maskedRead u s t else .route (.pass none) := by
  simp [windowAction, h, hk, hw, passOrMerge_read hw]

theorem windowAction_return (h : decidingWindow u t = some w) (hk : windowKind u w = .return) :
    windowAction u s t = if isWrite t && isNormal t.cls then .suppress else passOrMerge u t := by
  simp [windowAction, h, hk]

/-- The REPORT window hands the report unit the reads and the word writes of its live span (R64, R65). -/
theorem windowAction_report (h : decidingWindow u t = some w) (hk : windowKind u w = .report) :
    windowAction u s t =
      match liveWordOf (windowBase u w) t.addr with
      | none => passOrMerge u t
      | some i =>
        if isWrite t = true then (if t.lanes = .word then .route (.pass (some i)) else passOrMerge u t)
        else .report i := by
  unfold windowAction
  rw [h]
  dsimp only
  rw [hk]
  dsimp only
  cases liveWordOf (windowBase u w) t.addr <;> cases t.lanes <;> simp

end

theorem liveWordOf_above {base : Nat} {a : WordAddr} (h : base + 64 ≤ byteAddr a) : liveWordOf base a = none := by
  unfold liveWordOf
  exact dif_neg (by omega)

theorem liveWordOf_word {base : Nat} {a : WordAddr} {i : Fin 32} (h : byteAddr a = base + 2 * i.val) :
    liveWordOf base a = some i := by
  have hi : (byteAddr a - base) / 2 = i.val := by omega
  unfold liveWordOf
  simp [hi]

/-! ### A normal write under ENFORCE, and a read under masking -/

/-- R57's tests of a form-area cell, one by one. -/
theorem refusedCell_iff {s : State} {u : SetupBlock} (hu : s.setup.active = some u) (p : Nat) (t : Transfer) :
    refusedCell s p t = true ↔
      (∃ e, entryAt s.map.table p = some e) ∨ (∃ v, t.access = .write v ∧ isMark v = true ∧ t.lanes ≠ .low) ∨
        ∃ f, s.lookup p = some f ∧ isProtected f.word = true ∧ isDataOf (formSize u) f p = true := by
  have hn : s.formN = formSize u := by simp [State.formN, hu]
  have hm : writesMarkFlag t = true ↔ ∃ v, t.access = .write v ∧ isMark v = true ∧ t.lanes ≠ .low := by
    unfold writesMarkFlag
    cases t.lanes <;> cases t.access <;> simp
  unfold refusedCell
  rw [Bool.or_eq_true, Bool.or_eq_true, Option.isSome_iff_exists, hm, hn, or_assoc]
  cases s.lookup p <;> simp

theorem formPos_outside {u : SetupBlock} {a : WordAddr} {q : Nat} (h : screenPos u a = some q) (hq : formSize u ≤ q) :
    formPos u a = none := by
  unfold formPos
  rw [h]
  exact if_neg (by omega)

section
variable {u : SetupBlock} {s : State} {t : Transfer} {p q : Nat}

theorem enforcedWrite_current (hp : formPos u t.addr = some p) (hm : s.map.state = .current) :
    enforcedWrite u s t = if refusedCell s p t then .suppress else passOrMerge u t := by
  simp [enforcedWrite, hp, hm]

theorem enforcedWrite_limit (hp : formPos u t.addr = some p) (hm : s.map.state = .limit) :
    enforcedWrite u s t = .suppress := by
  simp [enforcedWrite, hp, hm]

theorem enforcedWrite_rebuilding (hp : formPos u t.addr = some p) (hm : s.map.state = .rebuilding) :
    enforcedWrite u s t = .hold .rebuild := by
  simp [enforcedWrite, hp, hm]

/-- Outside the form area the status row and the mirror word are guarded (R57). -/
theorem enforcedWrite_outside (hp : formPos u t.addr = none) :
    enforcedWrite u s t =
      if ∃ q, screenPos u t.addr = some q ∧
        ((statusRowOn u = true ∧ formSize u ≤ q ∧ q < formSize u + setupCols u) ∨ q = mirrorPos u)
      then .suppress else passOrMerge u t := by
  unfold enforcedWrite
  rw [hp]
  cases screenPos u t.addr with
  | none => simp
  | some q => simp [and_assoc]

/-- A read under masking in CURRENT (R60). -/
theorem maskedRead_current (hu : s.setup.active = some u) (hp : formPos u t.addr = some p) (hm : s.map.state = .current) :
    maskedRead u s t =
      if ∃ f, s.lookup p = some f ∧ isHidden f.word = true ∧ isDataOf (formSize u) f p = true then .masked
      else .route (.pass none) := by
  have hn : s.formN = formSize u := by simp [State.formN, hu]
  unfold maskedRead
  rw [hp, hm, hn]
  dsimp only
  cases hl : s.lookup p <;> simp

theorem maskedRead_outside (hp : formPos u t.addr = none) : maskedRead u s t = .route (.pass none) := by
  simp [maskedRead, hp]

theorem maskedRead_limit (hp : formPos u t.addr = some p) (hm : s.map.state = .limit) :
    maskedRead u s t = .route .maskedRead := by
  simp [maskedRead, hp, hm]

theorem maskedRead_rebuilding (hp : formPos u t.addr = some p) (hm : s.map.state = .rebuilding) :
    maskedRead u s t = .hold .rebuild := by
  simp [maskedRead, hp, hm]

end

/-! ### The statements -/

/-- Settles O7: the deciding window lets the transfer pass, in each of the ways it can. -/
theorem transfersThatPassWait : Obligations.TransfersThatPassWait := by
  intro tr s hj hi waits
  refine ⟨fun hu => arrival_runs hj hi (decideTransfer_unset hu tr), ?_⟩
  intro u hu hc hr hg normal asIssued
  have go {d : Decision} {r : Route} (ha : windowAction u s tr = d) (hd : d = .route r) : waits r :=
    arrival_runs hj hi ((decideTransfer_window hc hu hr hg).trans (ha.trans hd))
  have issued {d : Decision} (ha : windowAction u s tr = d) (hd : d = passOrMerge u tr) : waits asIssued :=
    go ha (hd.trans (passOrMerge_eq u tr))
  refine ⟨fun hw => issued (windowAction_none hw) rfl, fun w hw => ⟨fun hk hwr hpass => ?_, fun hk hwr hn he => ?_,
    fun hk hrd hpass => ?_, fun hk hrd hm hnd ⟨p, hp⟩ hl => ?_, fun hk hpass => ?_, fun hk hab => ?_,
    fun hk hwr hby => ?_, fun i hk hwr hwd hat' => ?_⟩⟩
  · refine issued (windowAction_screen_write hw hk hwr) (if_neg fun h => ?_)
    rw [Bool.and_eq_true, isNormal_iff] at h
    rcases hpass with hpass | hpass
    · rw [hpass] at h; exact absurd h.1 (by simp)
    · exact hpass h.2
  · have hb : (enforceOn u && isNormal tr.cls) = true := by rw [he, (isNormal_iff _).mpr hn]; rfl
    have hx := (windowAction_screen_write (s := s) hw hk hwr).trans (if_pos hb)
    refine ⟨fun p hp hm hent hprot hmark => ?_, fun hp hplace => ?_⟩
    · refine issued (hx.trans (enforcedWrite_current hp hm)) (if_neg fun h => ?_)
      rcases (refusedCell_iff hu p tr).mp h with ⟨e, h⟩ | ⟨v, hv, hvm, hlow⟩ | ⟨f, hf, hpr, hda⟩
      · rw [hent] at h; cases h
      · exact hlow (hmark v hv hvm)
      · rw [hprot f hf hpr] at hda; cases hda
    · refine issued (hx.trans (enforcedWrite_outside hp)) (if_neg ?_)
      rintro ⟨q, hq, ⟨hs, h1, h2⟩ | h⟩
      · rcases (hplace q hq).2 hs with h | h <;> omega
      · exact (hplace q hq).1 h
  · have hx := windowAction_screen_read (s := s) hw hk hrd
    by_cases hb : (maskingOn u && tr.cls == .nd) = true
    · rw [if_pos hb] at hx
      simp only [Bool.and_eq_true, beq_iff_eq] at hb
      rcases hpass with h | h | hp | ⟨p, hp, hm, hvis⟩
      · rw [h] at hb; exact absurd hb.1 (by simp)
      · exact absurd hb.2 h
      · exact go hx (maskedRead_outside hp)
      · refine go (hx.trans (maskedRead_current hu hp hm)) (if_neg ?_)
        rintro ⟨f, hf, hh, hd⟩
        rw [hvis f hf hh] at hd; cases hd
    · exact go hx (if_neg hb)
  · exact go ((windowAction_screen_read hw hk hrd).trans (if_pos (by simp [hm, hnd]))) (maskedRead_limit hp hl)
  · refine issued (windowAction_return hw hk) (if_neg fun h => ?_)
    rw [Bool.and_eq_true, isNormal_iff] at h
    rcases hpass with hpass | hpass
    · rw [hpass] at h; exact absurd h.1 (by simp)
    · exact hpass h.2
  · exact issued (windowAction_report hw hk) (by rw [liveWordOf_above hab])
  · refine issued (windowAction_report hw hk) ?_
    cases liveWordOf (windowBase u w) tr.addr with
    | none => rfl
    | some i => exact (if_pos hwr).trans (if_neg hby)
  · exact go (windowAction_report hw hk) (by rw [liveWordOf_word hat']; exact (if_pos hwr).trans (if_pos hwd))

/-- One more count, staying at 65535 (R171). -/
theorem countUp_toNat (w : Word) : (countUp w).toNat = min (w.toNat + 1) 65535 := by
  have hw := w.isLt
  unfold countUp
  split
  next h => rw [h]; rfl
  next h =>
    have hne : w.toNat ≠ 65535 := fun e => h (BitVec.eq_of_toNat_eq e)
    rw [BitVec.toNat_add, Nat.mod_eq_of_lt (by simp; omega)]
    simp; omega

/-- Settles O8: the window that suppresses, and the effect of a suppressed write. -/
theorem normalWritesSuppressed : Obligations.NormalWritesSuppressed := by
  refine ⟨fun tr s u w hc hu hr hg hwr hn hw hcase => ?_, fun tr s hj hi hd => ?_⟩
  · rw [decideTransfer_window hc hu hr hg]
    have hnorm := (isNormal_iff _).mpr hn
    rcases hcase with hk | ⟨hk, he, hcase⟩
    · rw [windowAction_return hw hk, hwr, hnorm]; rfl
    · rw [windowAction_screen_write hw hk hwr, he, hnorm]
      show enforcedWrite u s tr = .suppress
      rcases hcase with ⟨p, hp, hm, hcell⟩ | ⟨p, hp, hm⟩ | ⟨q, hq, hs, h1, h2⟩ | hq
      · rw [enforcedWrite_current hp hm, if_pos]
        refine (refusedCell_iff hu p tr).mpr ?_
        rcases hcell with h | h | h
        · exact .inl h
        · exact .inr (.inr h)
        · exact .inr (.inl h)
      · exact enforcedWrite_limit hp hm
      · rw [enforcedWrite_outside (formPos_outside hq h1), if_pos ⟨q, hq, .inl ⟨hs, h1, h2⟩⟩]
      · rw [enforcedWrite_outside (formPos_outside hq (formSize_le_mirror u)), if_pos ⟨_, hq, .inr rfl⟩]
  · obtain ⟨t, ht, hb⟩ := arrival_runs hj hi hd
    have hcount : t.report.counters.suppress = countUp s.report.counters.suppress :=
      congrArg (fun y => y.report.counters.suppress) hb
    refine ⟨t, ht, ?_, by rw [hcount, countUp_toNat], congrArg (fun y => y.report.pending) hb,
      congrArg (fun y => y.report.seen) hb⟩
    rw [besidesCauses_congr hb, hcount]
    show besidesCauses { s with inHand := none, answer := some .written, report.counters.suppress := _ } = _
    rw [← hi]
    rfl

/-! ### The vector code (R187) -/

theorem lowestBit_some {m : Byte} {b : Nat} (hb : b < 8) (hm : m.getLsbD b = true) (hl : ∀ c < b, m.getLsbD c = false) :
    lowestBit m = some b := by
  unfold lowestBit
  rw [List.find?_eq_some_iff_append]
  refine ⟨hm, List.range b, (List.range (7 - b)).map (· + (b + 1)), ?_, fun c hc => ?_⟩
  · interval_cases b <;> rfl
  · simp [hl c (List.mem_range.mp hc)]

theorem lowestBit_none {m : Byte} (h : ∀ c < 8, m.getLsbD c = false) : lowestBit m = none := by
  unfold lowestBit
  rw [List.find?_eq_none]
  intro c hc
  have : c < 8 := by
    simp only [List.mem_cons, List.not_mem_nil, or_false] at hc
    omega
  simp [h c this]

theorem getLsbD_causeEnables (u : SetupBlock) {b : Nat} (h : b < 8) :
    (causeEnables u).getLsbD b = (setupWord u 15).getLsbD b := by
  simp [causeEnables, h]

theorem getLsbD_causeLevels (u : SetupBlock) {b : Nat} (h : b < 8) :
    (causeLevels u).getLsbD b = (setupWord u 15).getLsbD (8 + b) := by
  simp [causeLevels, h]

section
variable {s : State} {u : SetupBlock} (hu : s.setup.active = some u)
include hu

/-- Level 1 before level 0. -/
theorem vectorCode_high {b : Nat} (hb : b < 8) (h1 : (s.report.pending &&& causeEnables u &&& causeLevels u).getLsbD b = true)
    (hl : ∀ c < b, (s.report.pending &&& causeEnables u &&& causeLevels u).getLsbD c = false) : vectorCode s = b + 1 := by
  simp only [vectorCode, hu, lowestBit_some hb h1 hl]

theorem vectorCode_low {b : Nat} (hb : b < 8)
    (h1 : ∀ c < 8, (s.report.pending &&& causeEnables u &&& causeLevels u).getLsbD c = false)
    (h0 : (s.report.pending &&& causeEnables u).getLsbD b = true)
    (hl : ∀ c < b, (s.report.pending &&& causeEnables u).getLsbD c = false) : vectorCode s = b + 1 := by
  simp only [vectorCode, hu, lowestBit_none h1, lowestBit_some hb h0 hl]

theorem vectorCode_none (h : ∀ c < 8, (s.report.pending &&& causeEnables u).getLsbD c = false) : vectorCode s = 0 := by
  have h1 : ∀ c < 8, (s.report.pending &&& causeEnables u &&& causeLevels u).getLsbD c = false := fun c hc => by
    rw [BitVec.getLsbD_and, h c hc]; rfl
  simp only [vectorCode, hu, lowestBit_none h1, lowestBit_none h]

end

/-- Settles O9: a masked read, and the report words that a read neither latches nor records. -/
theorem substitutedReads : Obligations.SubstitutedReads := by
  intro tr s u w hj hi hc hu hr hread hw answers
  have hrd : isWrite tr = false := by simp [isWrite, hread]
  have hdec := decideTransfer_window hc hu hr (inGatherHold_read hrd)
  refine ⟨fun p f hk hm hnd hp hcur hf hh hd => ?_, fun i hk hlive => ?_⟩
  · have hx : decideTransfer s tr = .masked := by
      rw [hdec, windowAction_screen_read hw hk hrd, if_pos (by simp [hm, hnd]), maskedRead_current hu hp hcur,
        if_pos ⟨f, hf, hh, hd⟩]
    obtain ⟨t, ht, hb⟩ := arrival_runs hj hi hx
    exact ⟨t, ht, hb.trans (by simp only [carryDecision, ← hi])⟩
  · have hx : decideTransfer s tr = .report i := by
      rw [hdec, windowAction_report hw hk, hlive]
      exact if_neg (by simp [hrd])
    have answered (h0 : i.val ≠ 0) (h16 : i.val ≠ 16) : answers (reportValue i s) := by
      obtain ⟨t, ht, hb⟩ := arrival_runs hj hi hx
      refine ⟨t, ht, hb.trans ?_⟩
      simp only [carryDecision, reportReadEffect, h0, h16, if_false, ← hi]
    refine ⟨fun h1 h15 => ?_, ?_, fun h18 => ?_⟩
    · have hv := answered (by omega) (by omega)
      rw [reportValue, if_neg (by omega), if_pos h15] at hv
      exact hv
    · intro h17 on high
      have hv : reportValue i s = BitVec.ofNat 16 (vectorCode s) := by simp [reportValue, h17]
      have ha := answered (by omega) (by omega)
      rw [hv] at ha
      have hon {c : Nat} (hc : c < 8) : (s.report.pending &&& causeEnables u).getLsbD c = on c := by
        rw [BitVec.getLsbD_and, getLsbD_causeEnables u hc]
      have hhigh {c : Nat} (hc : c < 8) :
          (s.report.pending &&& causeEnables u &&& causeLevels u).getLsbD c = (on c && high c) := by
        rw [BitVec.getLsbD_and, hon hc, getLsbD_causeLevels u hc]
      have hoff {c : Nat} (h : on c = true → high c = false) : (on c && high c) = false := by
        cases ho : on c with
        | false => rfl
        | true => exact h ho
      refine ⟨fun b hb h1 h2 hl => ?_, fun b hb hnone h0 hl => ?_, fun hnone => ?_⟩
      · rwa [vectorCode_high hu hb (by rw [hhigh hb, h1, h2]; rfl)
          (fun c hc => by rw [hhigh (by omega)]; exact hoff (hl c hc))] at ha
      · rwa [vectorCode_low hu hb (fun c hc => by rw [hhigh hc]; exact hoff (hnone c hc)) (by rw [hon hb, h0])
          (fun c hc => by rw [hon (by omega)]; exact hl c hc)] at ha
      · rwa [vectorCode_none hu (fun c hc => by rw [hon hc]; exact hnone c hc)] at ha
    · have hv : reportValue i s = 0#16 := by
        unfold reportValue
        iterate 4 rw [if_neg (by omega)]
      rw [← hv]
      exact answered (by omega) (by omega)

end Sys2Proof.Machine
end

section
/-! What holds a transfer, and what decides one held or waiting anew (R52 to R55, R58, R60); the list opened by GMOD and
GUNP (R156, R162, R178); the apply word (R193). -/

namespace Sys2Proof.Machine

/-! ### The tests that come before the window -/

theorem inHeldRange_of_covers {u : SetupBlock} {s : State} {a : WordAddr} {p : Nat} (hp : formPos u a = some p)
    (hc : rangeCovers (formSize u) s.heldRange p = true) : inHeldRange u s a = true := by
  simp [inHeldRange, hp, hc]

theorem inGatherHold_iff {u : SetupBlock} {s : State} {t : Transfer} :
    inGatherHold u s t = true ↔
      isWrite t = true ∧ s.composer.listPhase ≠ .closed ∧
        ∃ w, windowOf u .return = some w ∧ windowCovers u w t.addr = true := by
  unfold inGatherHold State.gathering
  cases windowOf u .return <;> simp [and_assoc]

/-- A transfer on a cell in the held range is held before any window is asked (R54). -/
theorem decideTransfer_range {s : State} {u : SetupBlock} {t : Transfer} (hc : s.coldAsserted = false)
    (hu : s.setup.active = some u) (hr : inHeldRange u s t.addr = true) : decideTransfer s t = .hold .range := by
  simp [decideTransfer, hc, hu, hr]

/-- A write into the RETURN window during a gather is held next (R55). -/
theorem decideTransfer_gather {s : State} {u : SetupBlock} {t : Transfer} (hc : s.coldAsserted = false)
    (hu : s.setup.active = some u) (hr : inHeldRange u s t.addr = false) (hg : inGatherHold u s t = true) :
    decideTransfer s t = .hold .gather := by
  simp [decideTransfer, hc, hu, hr, hg]

/-- A transfer decided anew has arrived as it would arrive then. -/
theorem arrivedAt_takeIn {tr : Transfer} {s : State} (hj : claimsJoined s) (hi : s.inHand = none) :
    arrivedAt tr s (takeIn tr s) :=
  ⟨_, event_true s.inHand.isNone (takeIn tr) s (by simp [hi]),
    (besidesStatus_settle_id _ _ (claimsJoined_takeIn tr hj)).symm⟩

/-- Settles O6: the three reasons to hold, and the transfer decided anew under the range taken. -/
theorem transfersAreHeldAndReleased : Obligations.TransfersAreHeldAndReleased := by
  intro tr s u hj hc hu
  refine ⟨fun hi => ⟨fun p hp hcov => ?_, fun hr hw hph hwin => ?_, fun w hr hg hwin hk hform hm hcase => ?_⟩,
    fun r st rest hi hst hp hfl htodo => ?_⟩
  · exact arrival_runs hj hi (decideTransfer_range hc hu (inHeldRange_of_covers hp hcov))
  · exact arrival_runs hj hi (decideTransfer_gather hc hu hr (inGatherHold_iff.mpr ⟨hw, hph, hwin⟩))
  · obtain ⟨p, hp⟩ := hform
    refine arrival_runs (d := .hold .rebuild) hj hi ((decideTransfer_window hc hu hr hg).trans ?_)
    rcases hcase with ⟨hwr, hn, he⟩ | ⟨hrd, hnd, hmask⟩
    · rw [windowAction_screen_write hwin hk hwr, if_pos (by simp [he, (isNormal_iff _).mpr hn])]
      exact enforcedWrite_rebuilding hp hm
    · rw [windowAction_screen_read hwin hk hrd, if_pos (by simp [hmask, hnd])]
      exact maskedRead_rebuilding hp hm
  · have htaken := postingTaken_takeIn hi hst hp htodo
    have hj0 : claimsJoined { s with inHand := none, heldRange := r, posting := none } := hj
    obtain ⟨t, ht, hb⟩ := event_effect (s.posting.isSome && !s.processorInFlight) postingTaken s (by simp [hp, hfl])
      (htaken ▸ claimsJoined_outside (outside_resume _) (claimsJoined_takeIn tr hj0))
    exact ⟨t, _, ht, arrivedAt_takeIn hj0 rfl, hb.trans (congrArg besidesStatus htaken)⟩

/-! ### The list that a directive opens -/

theorem holdForGather_hand (s : State) : holdForGather s = { s with inHand := (holdForGather s).inHand } := by
  unfold holdForGather
  split
  · split
    · split <;> rfl
    · rfl
    · rfl
  · rfl
  · rfl

theorem holdForGather_held {s : State} {u : SetupBlock} {tr : Transfer} {r : Route} (hu : s.setup.active = some u)
    (hi : s.inHand = some ⟨tr, .waiting r⟩) (hg : inGatherHold u s tr = true) :
    (holdForGather s).inHand = some ⟨tr, .held .gather⟩ := by
  simp [holdForGather, hu, hi, hg]

theorem holdForGather_kept {s : State} {u : SetupBlock} (hu : s.setup.active = some u)
    (h : ∀ tr r, s.inHand = some ⟨tr, .waiting r⟩ → inGatherHold u s tr = false) : (holdForGather s).inHand = s.inHand := by
  unfold holdForGather
  rw [hu]
  cases hi : s.inHand with
  | none => exact hi
  | some x =>
    obtain ⟨tr, st⟩ := x
    cases st with
    | waiting r => simp [h tr r hi, hi]
    | held _ | granted => exact hi

/-- The list is opened whatever transfer is in hand: the hold of a waiting write is all it changes of the hand. -/
theorem carryOn_openList_hand (n : Nat) {u : SetupBlock} {s : State} (hu : s.setup.active = some u) :
    carryOn (n + 1) (openList s) =
      { listOpening u s with
        inHand := (holdForGather { s with composer.listPhase := .opening, composer.used := 5, composer.count := 0 }).inHand } := by
  unfold openList
  rw [holdForGather_hand]
  exact carryOn_list n 0 _ _ (by exact hu)

theorem hasReturn_eq_false {s : State} {u : SetupBlock} (hu : s.setup.active = some u) :
    hasReturn s = false ↔ windowOf u .return = none := by
  simp [hasReturn, hu]

/-- A directive RUNNING completes with no range held: nothing but the composer and the intake changes. -/
theorem finishDirective_free {k : Completion} {s : State} {d : Directive} {op : Word} (hr : s.heldRange = .empty)
    (hp : s.posting = none) (hw : s.composer.work = .directive d op) (hi : s.report.intake.state = .running) :
    finishDirective k s =
      offer .directiveDone
        { s with
          report.intake.state := .completed, report.intake.completion := k,
          composer := idleWith s.composer.cursor s.composer.insertMode s.composer } := by
  have h : completeDirective k s =
      offer .directiveDone { s with report.intake.state := .completed, report.intake.completion := k } := by
    simp [completeDirective, hw, hi]
  have he : endWork (completeDirective k s) = idleComposer (releaseRange (completeDirective k s)) := by
    rw [h]; simp [endWork, hw, offer]
  unfold finishDirective
  rw [he, h, releaseRange_free _ (by exact hr) (by exact hp)]
  rfl

theorem gatherRow_runs {s : State} {c : Instr} {d : Directive} (hcd : (c = .gmod ∧ d = .gmod) ∨ (c = .gunp ∧ d = .gunp))
    (hd : directiveReady d s) (hj : claimsJoined (gatherFields (takeDirective d s))) :
    ∃ t, exec c s = .next t ∧ besidesStatus t = besidesStatus (gatherFields (takeDirective d s)) := by
  rcases hcd with ⟨rfl, rfl⟩ | ⟨rfl, rfl⟩ <;> exact directiveRow_runs hd hj

/-- Settles O47: the list opened with the hand as it was or held, and the two refusals. -/
theorem gatherDirectivesOpenList : Obligations.GatherDirectivesOpenList := by
  intro s u c d hj hu _ hcd hready
  refine ⟨fun hlim hret => ?_, fun hcase hfree => ?_⟩
  · intro intoReturn
    have hopen : ∃ y : State, gatherFields (takeDirective d s) = resume (openList y) ∧
        y = { takeDirective d s with
              composer.abortMark := false, composer.keyCode := 0x00#8, composer.cursorAtSend := s.composer.cursor } := by
      refine ⟨_, if_neg ?_, rfl⟩
      rintro (h | h)
      · exact hlim h
      · exact hret ((hasReturn_eq_false (by exact hu)).mp h)
    obtain ⟨y, hy, rfl⟩ := hopen
    rw [resume, carryOn_openList_hand _ (u := u) (by exact hu)] at hy
    obtain ⟨t, ht, hb⟩ := gatherRow_runs hcd hready (hy ▸ hj)
    have hhand := congrArg State.inHand (hb.trans (congrArg besidesStatus hy))
    change t.inHand = (holdForGather _).inHand at hhand
    refine ⟨t, ht, fun tr r hi hin => ?_, fun hout => ?_, hb.trans ((congrArg besidesStatus hy).trans ?_)⟩
    · refine hhand.trans (holdForGather_held (by exact hu) (by exact hi) (inGatherHold_iff.mpr ⟨hin.1, ?_, hin.2⟩))
      exact ListPhase.noConfusion
    · refine hhand.trans (holdForGather_kept (by exact hu) fun tr r hi => ?_)
      refine Bool.eq_false_iff.mpr fun hg => hout tr r hi ?_
      obtain ⟨hw, _, hwin⟩ := inGatherHold_iff.mp hg
      exact ⟨hw, hwin⟩
    · rw [hhand]
      rfl
  · obtain ⟨hr, hp, _⟩ := hfree
    have hy : gatherFields (takeDirective d s) =
        finishDirective .refusedState { takeDirective d s with composer.abortMark := false } :=
      if_pos (hcase.imp_right fun h => (hasReturn_eq_false (by exact hu)).mpr h)
    rw [finishDirective_free (by exact hr) (by exact hp) (by rfl) (by rfl)] at hy
    obtain ⟨t, ht, hb⟩ := gatherRow_runs hcd hready (hy ▸ hj)
    exact ⟨t, ht, hb.trans (congrArg besidesStatus hy)⟩

/-! ### The apply word -/

theorem requestApply_asks {v : Word} {s : State} (hv : v ≠ 0#16) (h : s.setup.state ≠ .applying) :
    requestApply v s = { s with setup.prior := s.setup.state, setup.state := .applying, setup.applyWaits := true } := by
  unfold requestApply requestApply.ask
  split
  next ha => exact absurd ha h
  all_goals exact if_neg hv

theorem requestApply_ignored {v : Word} {s : State} (h : v = 0#16 ∨ s.setup.state = .applying) :
    requestApply v s = s := by
  unfold requestApply requestApply.ask
  split
  next => rfl
  all_goals
    next ha => exact if_pos (h.resolve_right (by simp [ha]))

theorem applyRequest_runs {s x : State} {cls : AccessClass} {v : Word}
    (h : writeRuns none (setupAddr s.setup.strap 31) cls v s)
    (hx : requestApply v (afterWrite (setupAddr s.setup.strap 31) v s) = x) (hj : claimsJoined x)
    (hp : x.posting ≠ some .empty) :
    ∃ t, exec (.applyRequest cls v) s = .next t ∧ besidesStatus t = besidesStatus x := by
  obtain ⟨_, ⟨hvalid, _⟩, hcold, _⟩ := id h
  have hrun := wordWriteRow_runs none _ cls v s h fun u hu => formPos_setup _ u (hvalid u hu) 31 (by decide)
  have hwatch : watchApply (setupAddr s.setup.strap 31) .word v (afterWrite (setupAddr s.setup.strap 31) v s) = x := by
    rw [← hx]
    simp [watchApply, afterWrite, hcold]
  refine ⟨_, ?_, besidesStatus_settle_id s x hj⟩
  show (if s.coldAsserted then _ else _) = _
  rw [hcold, hrun]
  simp only [handReport, hwatch, takeOwedEmpty_none hp]
  rfl

/-- Settles O19: a nonzero value outside APPLYING is a request, and any other is ignored. -/
theorem applyWordWriteTable : Obligations.ApplyWordWriteTable := by
  intro s cls v h
  obtain ⟨hj, _, _, _, _, hpost, _⟩ := id h
  exact ⟨fun hv hs => applyRequest_runs h (requestApply_asks hv (by exact hs)) hj (by simp [afterWrite, hpost]),
    fun hcase => applyRequest_runs h (requestApply_ignored (by exact hcase)) hj (by simp [afterWrite, hpost])⟩

end Sys2Proof.Machine
end

section
/-! A warm reset in the middle of a list: the abort at once, or at the completion of the transfer under way (R72, R163,
R164). -/

namespace Sys2Proof.Machine

/-! ### What a completed transfer leaves the composer to go on with -/

theorem writeLearnt_outside {s : State} {u : SetupBlock} {a : WordAddr} (w : Word) (hu : s.setup.active = some u)
    (hf : formPos u a = none) : writeLearnt a w s = { s with mem := writeLanes s.mem a .word w, port := none } := by
  unfold writeLearnt learnTransfer learnWrite
  dsimp only [portDone, memAfter]
  rw [hu]
  dsimp only
  rw [hf]

/-- A list word has been written: nothing is learnt of it, and the composer goes on. -/
theorem composerDone_list {s : State} {u : SetupBlock} {a : WordAddr} {i : Nat} {w v : Word} {rest : List Op}
    (hu : s.setup.active = some u) (hf : formPos u a = none)
    (hp : s.port = some { owner := .composer, addr := a, op := .write .word w, orphan := false })
    (ht : s.composer.todo = .list i v :: rest) :
    composerDone s = carryComposer (setTodo rest { s with mem := writeLanes s.mem a .word w, port := none }) := by
  have hl : learnTransfer (composerWrite a w) (portDone (composerWrite a w) s) =
      { s with mem := writeLanes s.mem a .word w, port := none } := writeLearnt_outside w hu hf
  unfold composerDone
  rw [hp]
  dsimp only
  rw [if_neg (by simp), hl]
  simp only [ht]
  rfl

/-- A cell has been read: its word is kept, and the composer goes on. -/
theorem composerDone_cellRead {s : State} {a : WordAddr} {p : Nat} {rest : List Op}
    (hp : s.port = some { owner := .composer, addr := a, op := .read, orphan := false })
    (ht : s.composer.todo = .read p :: rest) : composerDone s = carryComposer (setTodo rest (readTaken a s)) := by
  unfold composerDone
  rw [hp]
  simp only [portDone, memAfter, learnTransfer, ht, Bool.false_eq_true, if_false]
  rfl

/-! ### The abort -/

theorem abortDue_iff {s : State} :
    abortDue s = true ↔
      s.composer.abortMark = true ∧ (s.composer.listPhase = .walking ∨ s.composer.listPhase = .closing) := by
  simp [abortDue]

theorem resume_abortList {u : SetupBlock} {s : State} (hu : s.setup.active = some u) :
    resume (abortList s) = listEnding u .aborted .aborting s :=
  carryOn_closingWrites 15 .aborted .aborting hu

theorem countIfWhole_whole {s : State} {size : Nat} {ops : List Op} (h : s.composer.todo = .call (.entryWritten size) :: ops) :
    countIfWhole s = countEntry size s := by
  simp [countIfWhole, h]

theorem countIfWhole_part {s : State} (h : ∀ size ops, s.composer.todo ≠ .call (.entryWritten size) :: ops) :
    countIfWhole s = s := by
  unfold countIfWhole
  split
  next size ops ht => exact absurd ht (h size ops)
  next => rfl

section
variable {u : SetupBlock} {s x : State} {rest : List Op} (hu : s.setup.active = some u)
include hu

/-- The composer goes on with the abort, in the middle of an entry. -/
theorem carryComposer_abort_part (hd : abortDue s = true) (h : ∀ size, ¬∃ ops, rest = .call (.entryWritten size) :: ops) :
    carryComposer (setTodo rest s) = listEnding u .aborted .aborting s := by
  have hd' : abortDue (setTodo rest s) = true := hd
  rw [carryComposer, if_pos hd', countIfWhole_part fun size ops e => h size ⟨ops, e⟩, resume_abortList (by exact hu)]
  rfl

/-- The composer goes on with the abort, an entry written whole and so counted. -/
theorem carryComposer_abort_whole {size : Nat} (hd : abortDue s = true)
    (h : ∃ ops, rest = .call (.entryWritten size) :: ops) :
    carryComposer (setTodo rest s) =
      listEnding u .aborted .aborting
        { s with composer.used := s.composer.used + size, composer.count := s.composer.count + 1 } := by
  obtain ⟨ops, rfl⟩ := h
  have hd' : abortDue (setTodo (.call (.entryWritten size) :: ops) s) = true := hd
  rw [carryComposer, if_pos hd', countIfWhole_whole rfl, resume_abortList (by exact hu)]
  rfl

end

/-! ### Warm reset itself -/

/-- Warm reset takes place whenever it is asserted; the composer and its claim are as the reset's effect leaves them. -/
theorem warmReset_runs {s x : State} (hx : abortNow (warmValues s) = x) :
    ∃ t, exec .warmReset s = .next t ∧ t.composer = x.composer ∧ t.composerClaim = x.composerClaim := by
  subst hx
  refine ⟨_, event_true true (fun s => abortNow (warmValues s)) s rfl, settle_composer _ _, ?_⟩
  have hc := congrArg State.composerClaim (besidesQueue_settle s (abortNow (warmValues s)))
  exact hc

theorem warmValues_abortMark {s : State} (h : sendOrGather s.composer.work = true) :
    (warmValues s).composer.abortMark = true := by
  show (s.composer.abortMark || sendOrGather s.composer.work) = true
  simp [h]

theorem warmValues_idlePort {s : State} (hp : ∀ t, s.port = some t → t.owner ≠ .composer) (hc : s.composerClaim = none) :
    transferUnderWay (warmValues s) = false := by
  have hport : (warmValues s).port = s.port.map (fun t => { t with owner := ownerAtWarm t.owner }) := rfl
  have hclaim : (warmValues s).composerClaim = s.composerClaim := rfl
  unfold transferUnderWay carriesComposer
  rw [hport, hclaim, hc]
  cases h : s.port with
  | none => rfl
  | some t =>
    have ho := hp t h
    cases hown : t.owner <;> simp_all [ownerAtWarm]

/-- Settles O5: the abort at once, the claim that keeps waiting, and the abort at a completion. -/
theorem warmResetAbortsOpenList : Obligations.WarmResetAbortsOpenList := by
  intro s u hu hphase hwork
  have hmark := warmValues_abortMark ((sendOrGather_iff _).mpr hwork)
  refine ⟨fun hport hclaim => ?_, fun c hclaim => ?_, ?_⟩
  · have hdue : abortDue (warmValues s) = true := abortDue_iff.mpr ⟨hmark, hphase⟩
    have hx : abortNow (warmValues s) = listEnding u .aborted .aborting (warmValues s) := by
      unfold abortNow
      rw [hdue, warmValues_idlePort hport hclaim]
      exact resume_abortList hu
    obtain ⟨t, ht, hc, hcl⟩ := warmReset_runs hx
    exact ⟨t, ht, hc ▸ hmark, hc ▸ rfl, hcl, hc ▸ rfl⟩
  · obtain ⟨ph, todo, c', hx, hkeep⟩ := abortNow_form (warmValues s)
    obtain ⟨hph, htodo, hc'⟩ := hkeep (warmValues_no_abort (.inr (.inr (by simp [hclaim]))))
    obtain ⟨t, ht, hc, hcl⟩ := warmReset_runs hx
    refine ⟨t, ht, hc ▸ hmark, hcl.trans (hc'.trans hclaim), ?_, ?_⟩
    · rw [hc]; exact hph
    · rw [hc]; exact htodo
  · intro a rest hj habort result endsEntry
    have hdue : abortDue s = true := abortDue_iff.mpr ⟨habort, hphase⟩
    refine ⟨fun p hp ht hno => ?_, fun i w hp hf ht => ?_⟩
    · exact composer_next hp rfl ((composerDone_cellRead hp ht).trans (carryComposer_abort_part hu hdue hno)) hj
    · intro written
      have hdone : composerDone s = carryComposer (setTodo rest written) := composerDone_list hu hf hp ht
      exact ⟨fun hno => composer_next hp rfl (hdone.trans (carryComposer_abort_part (by exact hu) hdue hno)) hj,
        fun size hsize => composer_next hp rfl (hdone.trans (carryComposer_abort_whole (by exact hu) hdue hsize)) hj⟩

end Sys2Proof.Machine
end

section
/-! The end of a list (R153, R159, R163, R164, R174, R178): the completion told, the range released, a held write decided
anew. -/

namespace Sys2Proof.Machine

/-! ### The completion told -/

/-- The work of a send key or of a directive. -/
def keyOrDirective (w : Work) : Prop := (∃ code, w = .token (.key code)) ∨ ∃ d op, w = .directive d op

def listCode : ListState → Completion
  | .complete => .done
  | .truncated => .doneTruncated
  | .aborted => .aborted

/-- What the end of a list tells: a send's SEND READY, unless its abort mark is set; a directive's completion. -/
def listTold (st : ListState) (s : State) : State :=
  match s.composer.work with
  | .directive _ _ => completeDirective (listCode st) s
  | .token _ => if s.composer.abortMark then s else offer .sendReady s
  | .none => s
  | .apply => s

theorem listDone_eq {s : State} (st : ListState) (h : keyOrDirective s.composer.work) :
    listDone st s = decideHeld (endWork (listTold st { s with composer.listPhase := .closed })) := by
  unfold listDone listTold
  rcases h with ⟨code, hw⟩ | ⟨d, op, hw⟩
  · simp only [hw, finishSend]
  · simp only [hw, finishDirective]
    cases st <;> rfl

theorem completeDirective_hand (c : Completion) (s : State) (i : Option InHand) :
    completeDirective c { s with inHand := i } = { completeDirective c s with inHand := i } := by
  unfold completeDirective
  cases s.composer.work <;> cases s.report.intake.state <;> rfl

theorem completeDirective_keeps (c : Completion) (s : State) :
    (completeDirective c s).inHand = s.inHand ∧ (completeDirective c s).port = s.port ∧
      (completeDirective c s).composer = s.composer ∧ outside (completeDirective c s) = outside s := by
  unfold completeDirective
  cases s.composer.work <;> cases s.report.intake.state <;> exact ⟨rfl, rfl, rfl, rfl⟩

theorem listTold_hand (st : ListState) (s : State) (i : Option InHand) :
    listTold st { s with inHand := i } = { listTold st s with inHand := i } := by
  unfold listTold
  cases s.composer.work with
  | directive d op => exact completeDirective_hand _ s i
  | token t => cases s.composer.abortMark <;> rfl
  | none | apply => rfl

theorem listTold_keeps (st : ListState) (s : State) :
    (listTold st s).inHand = s.inHand ∧ (listTold st s).port = s.port ∧ (listTold st s).composer = s.composer ∧
      outside (listTold st s) = outside s := by
  unfold listTold
  cases s.composer.work with
  | directive d op => exact completeDirective_keeps _ s
  | token t => cases s.composer.abortMark <;> exact ⟨rfl, rfl, rfl, rfl⟩
  | none | apply => exact ⟨rfl, rfl, rfl, rfl⟩

/-! ### A held write at the end of the work -/

/-- A write decided anew and held again is decided as before. -/
theorem decideHeld_takeIn {tr : Transfer} (s : State) (hw : isWrite tr = true) :
    decideHeld (takeIn tr { s with inHand := none }) = takeIn tr { s with inHand := none } := by
  have hd : ∀ h a, decideTransfer { s with inHand := h, answer := a } tr = decideTransfer s tr := fun _ _ => rfl
  have hd0 : decideTransfer { s with inHand := none } tr = decideTransfer s tr := rfl
  unfold takeIn
  rw [hd0]
  cases hc : decideTransfer s tr with
  | report i => exact absurd hc (decideTransfer_write hw i)
  | hold why =>
    show takeIn tr { s with inHand := some ⟨tr, .held why⟩, answer := none } = _
    unfold takeIn
    rw [hd, hc]
    rfl
  | route r => rfl
  | suppress | masked => exact decideHeld_alone _ rfl

/-- The work ends with a write held: the write is decided once, with the composer IDLE and no range held. -/
theorem decideHeld_endWork {s : State} {tr : Transfer} {why : HoldReason} (hk : keyOrDirective s.composer.work)
    (hi : s.inHand = some ⟨tr, .held why⟩) (hf : s.processorInFlight = false) (hw : isWrite tr = true) :
    decideHeld (endWork s) = takeIn tr (workEnded s.composer.cursor { s with inHand := none }) := by
  have he : endWork s = idleComposer (releaseRange s) := by
    rcases hk with ⟨code, hk⟩ | ⟨d, op, hk⟩ <;> simp [endWork, hk, freeTokenSlot]
  rw [he]
  by_cases hr : s.heldRange = .empty ∧ s.posting = none
  · have hended : workEnded s.composer.cursor { s with inHand := none } =
        { idleComposer { s with composer.posted := .empty } with inHand := none } := by
      obtain ⟨h1, h2⟩ := hr
      cases s
      cases h1
      cases h2
      rfl
    rw [releaseRange_free s hr.1 hr.2, hended, takeIn_hand]
    simp [decideHeld, idleComposer, hi]
  · have hrel : releaseRange s =
        takeIn tr { s with inHand := none, heldRange := .empty, posting := none, composer.posted := .empty } := by
      unfold releaseRange
      rw [if_neg hr, hf, if_neg (by simp)]
      exact takePosting_takeIn (s := { s with composer.posted := .empty }) hi nofun
    rw [hrel, idleComposer_takeIn hw]
    exact decideHeld_takeIn (workEnded s.composer.cursor s) hw

/-- With no transfer in hand the work just ends. -/
theorem decideHeld_endWork_alone {s : State} (hk : keyOrDirective s.composer.work) (hi : s.inHand = none)
    (hf : s.processorInFlight = false) : decideHeld (endWork s) = workEnded s.composer.cursor s := by
  have he : endWork s = workEnded s.composer.cursor s := by
    rcases hk with ⟨code, hk⟩ | ⟨d, op, hk⟩
    · exact endWork_key s code hi hf hk
    · exact endWork_directive s d op hi hf hk
  rw [he]
  exact decideHeld_alone _ hi

/-! ### The last word of a list -/

/-- The final state word written, the gather over. -/
def listClosed (a : WordAddr) (w : Word) (s : State) : State :=
  { s with mem := writeLanes s.mem a .word w, port := none, composer.listPhase := .closed, composer.todo := [] }

/-- The list's end, with no transfer of the processor in hand. -/
def listEnded (st : ListState) (a : WordAddr) (w : Word) (s : State) : State :=
  workEnded s.composer.cursor (listTold st { listClosed a w s with inHand := none })

theorem claimsJoined_listEnded {s : State} (st : ListState) (a : WordAddr) (w : Word) (hj : claimsJoined s) :
    claimsJoined (listEnded st a w s) := by
  obtain ⟨-, -, -, ho⟩ := listTold_keeps st { listClosed a w s with inHand := none }
  exact claimsJoined_outside (s := listClosed a w s) ho hj

theorem listEnded_alone {s x : State} {st : ListState} {a : WordAddr} {w : Word} (hi : s.inHand = none)
    (hx : listTold st (listClosed a w s) = x) : listEnded st a w s = workEnded s.composer.cursor x := by
  subst hx
  have hn : { listClosed a w s with inHand := none } = listClosed a w s := by rw [← hi]; rfl
  rw [listEnded, hn]

section
variable {s : State} {u : SetupBlock} {a : WordAddr} {w : Word} {st : ListState} (hu : s.setup.active = some u)
  (hf : formPos u a = none) (ha : noAbort s)
  (hp : s.port = some { owner := .composer, addr := a, op := .write .word w, orphan := false })
  (ht : s.composer.todo = [.list 0 w, .call (.listClosed st)]) (hk : keyOrDirective s.composer.work)
include hu hf ha hp ht hk

theorem composerDone_listClosed :
    composerDone s = carryOn 15 (decideHeld (endWork (listTold st (listClosed a w s)))) := by
  have hd : abortDue (setTodo [.call (.listClosed st)] { s with mem := writeLanes s.mem a .word w, port := none }) = false :=
    abortDue_noAbort ha
  rw [composerDone_list hu hf hp ht, carryComposer, hd, if_neg (by simp), resume, carryOn_cont]
  exact congrArg _ (listDone_eq st hk)

theorem composerDone_listEnded (hi : s.inHand = none) : composerDone s = listEnded st a w s := by
  obtain ⟨h1, h2, h3, -⟩ := listTold_keeps st (listClosed a w s)
  rw [composerDone_listClosed hu hf ha hp ht hk,
    decideHeld_endWork_alone (by rw [h3]; exact hk) (h1.trans hi) (processorInFlight_none h2), h3, carryOn_workEnded,
    listEnded_alone hi rfl]
  rfl

theorem composerDone_listEnded_held {tr : Transfer} (hi : s.inHand = some ⟨tr, .held .gather⟩) (hw : isWrite tr = true) :
    composerDone s = takeIn tr (listEnded st a w s) := by
  obtain ⟨h1, h2, h3, -⟩ := listTold_keeps st (listClosed a w s)
  have hx : workEnded s.composer.cursor { listTold st (listClosed a w s) with inHand := none } = listEnded st a w s :=
    congrArg _ (listTold_hand st (listClosed a w s) none).symm
  have hc : (listTold st (listClosed a w s)).composer.cursor = s.composer.cursor := by rw [h3]; rfl
  rw [composerDone_listClosed hu hf ha hp ht hk,
    decideHeld_endWork (by rw [h3]; exact hk) (h1.trans hi) (processorInFlight_none h2) hw, hc]
  refine (congrArg (fun y => carryOn 15 (takeIn tr y)) hx).trans (carryOn_nil 15 ?_)
  rw [takeIn_composer]
  rfl

end

theorem listOpened_abort {s : State} (h : s.composer.abortMark = true) : listOpened s = abortList s := by
  unfold listOpened
  rw [if_pos h]

/-- Settles O44: each way a list is told to have ended, the write it held, and an abort met at the opening. -/
theorem listEndsReportAndRelease : Obligations.ListEndsReportAndRelease := by
  refine ⟨fun s u a w st hj hu hf hab hph hp ht => ?_, fun s u a w hj hu hf hi hab hph hp ht => ?_⟩
  · have ha : noAbort s := hab.elim id fun h => .inr (by simp [h])
    intro ended
    have told {x : State} (hk : keyOrDirective s.composer.work) (hi : s.inHand = none)
        (hx : listTold st (listClosed a w s) = x) :
        ∃ t, exec .composerTransferCompletion s = .next t ∧
          besidesStatus t = besidesStatus (workEnded s.composer.cursor x) := by
      rw [← listEnded_alone hi hx]
      exact composer_next hp rfl (composerDone_listEnded hu hf ha hp ht hk hi) (claimsJoined_listEnded st a w hj)
    have offered {c : Cause} {x : State} (hk : keyOrDirective s.composer.work) (hi : s.inHand = none)
        (hx : listTold st (listClosed a w s) = offer c x) (hr : x.report.pending = s.report.pending)
        (hs : x.report.seen = s.report.seen) :
        ∃ t, exec .composerTransferCompletion s = .next t ∧ t.report.pending = s.report.pending ||| causeBit c ∧
          t.report.seen = s.report.seen &&& ~~~causeBit c ∧
          besidesCauses t = besidesCauses (workEnded s.composer.cursor x) := by
      obtain ⟨t, ht, hb⟩ := told hk hi hx
      have hpend := congrArg (fun y => y.report.pending) hb
      have hseen := congrArg (fun y => y.report.seen) hb
      exact ⟨t, ht, hr ▸ hpend, hs ▸ hseen, (besidesCauses_congr hb).trans rfl⟩
    refine ⟨fun hi => ⟨fun code hw => ?_, fun d op hw => ?_⟩, fun tr hi hwr hk => ?_⟩
    · have hk : keyOrDirective s.composer.work := .inl ⟨code, hw⟩
      exact ⟨fun hm => offered (c := .sendReady) (x := listClosed a w s) hk hi (by simp [listTold, listClosed, hw, hm]) rfl rfl,
        fun hm => told (x := listClosed a w s) hk hi (by simp [listTold, listClosed, hw, hm])⟩
    · have hk : keyOrDirective s.composer.work := .inr ⟨d, op, hw⟩
      intro code
      refine ⟨fun hn => ?_, fun hn => ?_, fun hn => ?_⟩
      · exact offered (c := .directiveDone)
          (x := { listClosed a w s with report.intake.state := .completed, report.intake.completion := listCode st }) hk hi
          (by simp [listTold, listClosed, completeDirective, hw, hn]) rfl rfl
      · exact offered (c := .directiveDone)
          (x := { listClosed a w s with
            report.intake :=
              { s.report.intake with
                state := .completed, code := directiveCode d, operand := op, completion := listCode st } }) hk hi
          (by simp [listTold, listClosed, completeDirective, hw, hn]) rfl rfl
      · refine told (x := listClosed a w s) hk hi ?_
        rcases hn with hn | hn <;> simp [listTold, listClosed, completeDirective, hw, hn]
    · refine event_arrivedAt (s0 := listEnded st a w s) (f := composerDone) (can := carriesComposer s)
        (by simp [carriesComposer, hp]) rfl rfl ?_ ?_
        (composerDone_listEnded_held hu hf ha hp ht hk hi hwr) (claimsJoined_listEnded st a w hj)
      · exact composerDone_listEnded (s := { s with inHand := none }) hu hf ha hp ht hk rfl
      · exact (listTold_keeps st _).1
  · obtain ⟨t, ht, hb⟩ := list_runs hj hu hf (.inr (by simp [hph])) hp ht
    refine ⟨t, ht, hb.trans (congrArg besidesStatus ?_)⟩
    show carryOn 15 (listOpened _) = _
    rw [listOpened_abort (by exact hab)]
    exact carryOn_closingWrites 14 .aborted .aborting (by exact hu)

end Sys2Proof.Machine
end

section
/-! The completion of a processor write (R48, R56): the bytes in memory, and what upkeep can change with no transfer of the
processor in hand. -/

namespace Sys2Proof.Machine

/-! ### The bytes of a write -/

section
variable {m : Memory} (h : Memory.wf m) (a : WordAddr) (l : Lanes) (v : Word)
include h

theorem lowByte_writeLanes (hl : l ≠ .high) : readByte (writeLanes m a l v) (byteAddr a) = v.setWidth 8 := by
  cases l with
  | high => exact absurd rfl hl
  | low => exact readByte_writeByte_same _ _ _ h.1
  | word =>
    have hm : Memory.wf (writeByte m (byteAddr a) (v.setWidth 8)) := Memory.wf_writeLanes m a .low v h
    exact (readByte_writeByte_other _ _ _ _ hm.1 (by omega)).trans (readByte_writeByte_same _ _ _ h.1)

theorem highByte_writeLanes (hl : l ≠ .low) :
    readByte (writeLanes m a l v) (byteAddr a + 1) = (v >>> 8).setWidth 8 := by
  cases l with
  | low => exact absurd rfl hl
  | high => exact readByte_writeByte_same _ _ _ h.1
  | word =>
    have hm : Memory.wf (writeByte m (byteAddr a) (v.setWidth 8)) := Memory.wf_writeLanes m a .low v h
    exact readByte_writeByte_same _ _ _ hm.1

theorem otherByte_writeLanes {b : Nat} (h0 : b ≠ byteAddr a ∨ l = .high) (h1 : b ≠ byteAddr a + 1 ∨ l = .low) :
    readByte (writeLanes m a l v) b = readByte m b := by
  cases l with
  | low => exact readByte_writeByte_other _ _ _ _ h.1 (h0.resolve_right nofun)
  | high => exact readByte_writeByte_other _ _ _ _ h.1 (h1.resolve_right nofun)
  | word => exact readByte_writeLanes_other m a .word v b h (h0.resolve_right nofun) (h1.resolve_right nofun)

end

/-! ### Upkeep with no transfer in hand -/

/-- Upkeep changes the map, the causes and the intake, and, where it ends a rebuild, the composer's work: neither the
cursor nor a counter. -/
def upkeptFrom (s t : State) : Prop :=
  ∃ m r b c cl, t = { s with map := m, report := r, attn := b, composer := c, composerClaim := cl } ∧
    c.cursor = s.composer.cursor ∧ r.counters = s.report.counters

theorem upkeptFrom_refl (s : State) : upkeptFrom s s := ⟨_, _, _, _, _, rfl, rfl, rfl⟩

theorem pauseLeft_upkept (s : State) : upkeptFrom s (pauseLeft s) := by
  unfold pauseLeft completeDirective
  repeat' split
  all_goals exact ⟨_, _, _, _, _, rfl, rfl, rfl⟩

theorem rebuildLimit_upkept {s : State} (hi : s.inHand = none) : upkeptFrom s (rebuildLimit s) := by
  obtain ⟨m, r, b, c, cl, h, hc, hr⟩ := pauseLeft_upkept (scanLimit s)
  have hl : rebuildLimit s = pauseLeft (scanLimit s) := rebuildEnded_alone (s := scanLimit s) hi
  exact ⟨m, r, b, c, cl, hl.trans h, hc, hr⟩

theorem upkeep_upkept (p : Nat) (w : Word) {s : State} (hi : s.inHand = none) : upkeptFrom s (upkeep p w s) := by
  unfold upkeep
  cases s.map.state with
  | unbuilt | limit => exact upkeptFrom_refl s
  | current =>
    dsimp only
    split
    next m _ => rw [followWrite_alone hi]; exact ⟨_, _, _, _, _, rfl, rfl, rfl⟩
    next => exact ⟨_, _, _, _, _, rfl, rfl, rfl⟩
  | rebuilding =>
    dsimp only
    split
    · split
      · exact ⟨_, _, _, _, _, rfl, rfl, rfl⟩
      · exact rebuildLimit_upkept hi
    · exact upkeptFrom_refl s

theorem learnWrite_upkept (a : WordAddr) {s : State} (hi : s.inHand = none) : upkeptFrom s (learnWrite a s) := by
  unfold learnWrite
  repeat' split
  · exact upkeptFrom_refl s
  · exact upkeep_upkept _ _ hi
  · exact upkeptFrom_refl s

theorem learnWrite_outside {a : WordAddr} {s : State} (h : ∀ u, s.setup.active = some u → formPos u a = none) :
    learnWrite a s = s := by
  unfold learnWrite
  split
  · rfl
  next u hu => rw [h u hu]

/-- The posting of EMPTY that waited for the transfer changes the decoder's range alone. -/
theorem takeOwedEmpty_alone {s : State} (hi : s.inHand = none) :
    ∃ r p, takeOwedEmpty s = { s with heldRange := r, posting := p } := by
  unfold takeOwedEmpty
  split
  · exact ⟨.empty, none, decideAnew_alone (s := { s with heldRange := .empty, posting := none }) hi⟩
  · exact ⟨_, _, rfl⟩

/-! ### The completion -/

/-- The write at memory, the port free and ready given. -/
def writeAnswered (a : WordAddr) (l : Lanes) (v : Word) (s : State) : State :=
  { s with mem := writeLanes s.mem a l v, port := none, inHand := none, answer := some .written }

theorem transferDone_write {s : State} {tr : Transfer} {a : WordAddr} {l : Lanes} {v : Word}
    (hi : s.inHand = some ⟨tr, .granted⟩) (ha : a ≠ setupAddr s.setup.strap 31)
    (hp : s.port = some { owner := .processor none false true, addr := a, op := .write l v, orphan := false }) :
    transferDone s = takeOwedEmpty (learnWrite a (writeAnswered a l v s)) := by
  obtain ⟨m, r, b, c, cl, hl, -, -⟩ := learnWrite_upkept a (s := writeAnswered a l v s) rfl
  have hstrap : (learnWrite a (writeAnswered a l v s)).setup.strap = s.setup.strap := by rw [hl]; rfl
  rw [transferDone_processor hp rfl rfl]
  unfold processorDone
  dsimp only [tellBlocks, handReport]
  rw [giveReady_granted (s := portDone _ s) _ hi]
  exact congrArg takeOwedEmpty (watchApply_other (s := learnWrite a (writeAnswered a l v s)) (hstrap ▸ ha) l v)

/-- Settles O11: the bytes of the write, and the parts that neither upkeep nor an owed posting touches. -/
theorem processorWriteCompletes : Obligations.ProcessorWriteCompletes := by
  intro s tr a l v hwf hj hi ha hp
  have hdone := transferDone_write hi ha hp
  obtain ⟨m, r, b, c, cl, hl, hcur, hcnt⟩ := learnWrite_upkept a (s := writeAnswered a l v s) rfl
  obtain ⟨rg, po, ho⟩ := takeOwedEmpty_alone (s := learnWrite a (writeAnswered a l v s)) (by rw [hl]; rfl)
  have hx := hdone.trans ho
  rw [hl] at hx
  obtain ⟨t, ht, hb⟩ := event_effect (carriesProcessor s) transferDone s (carriesProcessor_of hp (.inl ⟨_, _, _, rfl⟩))
    (by rw [hx]; exact hj)
  have hbx := hb.trans (congrArg besidesStatus hx)
  have keeps {α : Type} (g : State → α) : g (besidesStatus t) = g (besidesStatus _) := congrArg g hbx
  have hmem : t.mem = writeLanes s.mem a l v := keeps State.mem
  refine ⟨t, ht, keeps State.port, keeps State.inHand, keeps State.answer, ?_, ?_, ?_, keeps State.setup,
    keeps State.queue, keeps State.slots, keeps State.holding, keeps State.timer, keeps State.keyboard,
    keeps State.scanner, keeps State.fairness, keeps State.lock, (keeps fun y => y.composer.cursor).trans hcur,
    (keeps fun y => y.report.counters).trans hcnt, fun hout hpost => ?_⟩
  · exact fun h => hmem ▸ lowByte_writeLanes hwf a l v h
  · exact fun h => hmem ▸ highByte_writeLanes hwf a l v h
  · exact fun b ⟨h0, h1⟩ => hmem ▸ otherByte_writeLanes hwf a l v h0 h1
  · rw [hb, hdone, learnWrite_outside (s := writeAnswered a l v s) hout, takeOwedEmpty_none (by exact hpost)]
    rfl

end Sys2Proof.Machine
end

section
/-! The posting that a hold awaits is taken with a transfer in hand as with none (R53, R54, R127, R133, R134). -/

namespace Sys2Proof.Machine

/-! ### The transfer in hand under the new range -/

/-- The range r taken, the transfer in hand held in it. -/
def rangeHeld (r : HeldRange) (s : State) : State :=
  { rangeTaken r s with
    inHand := s.inHand.map (fun h => ⟨h.transfer, .held .range⟩)
    answer := if s.inHand.isSome then none else s.answer }

/-- A transfer in hand, if there is one, is not granted and lies on a cell in the range r. -/
def handInRange (u : SetupBlock) (r : HeldRange) (s : State) : Prop :=
  ∀ h, s.inHand = some h → h.standing ≠ .granted ∧
    ∃ p, formPos u h.transfer.addr = some p ∧ rangeCovers (formSize u) r p = true

section
variable {s : State} {u : SetupBlock} {r : HeldRange} (hc : s.coldAsserted = false) (hu : s.setup.active = some u)
  (hh : handInRange u r s)
include hc hu hh

theorem takePosting_rangeHeld : takePosting r s = rangeHeld r s := by
  cases hi : s.inHand with
  | none =>
    have hx : takePosting r s = rangeTaken r s := decideAnew_alone (s := rangeTaken r s) hi
    rw [hx]
    simp [rangeHeld, rangeTaken, hi]
  | some h =>
    obtain ⟨tr, st⟩ := h
    obtain ⟨hst, p, hp, hcov⟩ := hh _ hi
    have hd : decideTransfer { s with inHand := none, heldRange := r, posting := none } tr = .hold .range :=
      decideTransfer_range hc hu (inHeldRange_of_covers hp hcov)
    rw [takePosting_takeIn hi hst, takeIn, hd]
    simp [carryDecision, rangeHeld, rangeTaken, hi]

/-- The posting the composer awaits is taken, and the composer goes on with the rest (R53, R54). -/
theorem posting_holds {rest : List Op} {x : State} (hj : claimsJoined s) (hp : s.posting = some r)
    (hf : s.processorInFlight = false) (ht : s.composer.todo = .post r :: rest)
    (hx : resume (setTodo rest (rangeHeld r s)) = x) :
    ∃ t, exec .heldRangePosting s = .next t ∧ besidesStatus t = besidesStatus x := by
  have htodo : (rangeHeld r s).composer.todo = .post r :: rest := ht
  have he : postingTaken s = x := by
    unfold postingTaken
    rw [hp]
    simp only [takePosting_rangeHeld hc hu hh, htodo]
    exact hx
  have hj' : claimsJoined x := hx ▸ claimsJoined_outside (s := setTodo rest (rangeHeld r s)) (outside_resume _) hj
  subst he
  exact event_effect (s.posting.isSome && !s.processorInFlight) postingTaken s (by simp [hp, hf]) hj'

end

/-! ### The working lookup -/

section
variable {s : State} {m : Option Nat} {l : Nat} {f : Field} (hl : s.lookup s.composer.cursor = some f)
include hl

theorem holdTaken_found {w : Bool} (h : w = true ∨ (f.mark = m ∧ f.len = l)) : holdTaken m l w s = heldWork (holdOn f s) := by
  unfold holdTaken
  rw [hl]
  exact if_pos (by rcases h with h | ⟨h1, h2⟩ <;> simp [*])

theorem holdTaken_other (h : ¬(f.mark = m ∧ f.len = l)) :
    holdTaken m l false s =
      setTodo [.post .whole, .call .holdWhole] { s with composer.workingTable := some s.map.table } := by
  unfold holdTaken
  rw [hl]
  exact if_neg (by simpa using h)

theorem holdUnderWhole_found :
    holdUnderWhole s = setTodo [.post (heldRangeOf s.map.table f), .call .holdNarrow] (holdOn f s) := by
  unfold holdUnderWhole
  rw [hl]
  rfl

end

/-- NO FIELD refuses the token, whichever lookup of the hold it is. -/
theorem holdLookup_none {s : State} {k : Cont} (hk : (∃ m l w, k = .holdFirst m l w) ∨ k = .holdWhole)
    (hl : s.lookup s.composer.cursor = none) : runCont k s = refuse .formatLimit s := by
  rcases hk with ⟨m, l, w, rfl⟩ | rfl
  · show holdTaken m l w s = _
    unfold holdTaken
    rw [hl]
  · show holdUnderWhole s = _
    unfold holdUnderWhole
    rw [hl]

/-- A character that the field admits is written over the cell at the cursor (R133, R134). -/
theorem heldCharacter_overwrites {s : State} {f : Field} {c : Byte} (hf : s.composer.field = some f)
    (hd : isDataOf s.formN f s.composer.cursor = true) (hp : isProtected f.word = false)
    (ha : allows (entryType f.word) (foldUpper (isUppercase f.word) c) = true) (hm : s.composer.insertMode = false) :
    heldCharacter c s =
      setTodo
        [.write s.composer.cursor (dataCell (foldUpper (isUppercase f.word) c)), .call .setModified, .call .charWritten] s := by
  have hh : heldField s = f := by simp [heldField, hf]
  have hn : notEnterable s f = false := by simp [notEnterable, hd, hp]
  unfold heldCharacter
  simp only [hh, hn, ha, hm, Bool.false_eq_true, Bool.not_true, if_false]

/-- Settles O14: the posting taken, then the working lookup's four outcomes. -/
theorem postingIsTaken : Obligations.PostingIsTaken := by
  intro s u r hj hc hu hp hf result taken
  refine ⟨fun hh => ?_, fun k hdue hk hnone => ?_⟩
  · have go {rest : List Op} {x : State} (ht : s.composer.todo = .post r :: rest)
        (hx : resume (setTodo rest taken) = x) : result x := posting_holds hc hu hh hj hp hf ht hx
    have goOn {k : Cont} {x : State} (ht : s.composer.todo = [.post r, .call k])
        (hx : carryOn 15 (runCont k (setTodo [] taken)) = x) : result x := go ht ((carryOn_cont 15 k taken).trans hx)
    refine ⟨fun rest ht => go ht rfl, ?_, fun m l f ht hl hne => goOn ht ?_, fun f ht hl => goOn ht ?_⟩
    · intro ch f whole hw hch ht hl hd hpr hal hins w
      refine goOn ht ?_
      have hn : (holdOn f (setTodo [] taken)).formN = formSize u := by simp [State.formN, holdOn, setTodo, taken, rangeTaken, hu]
      have hwork : heldWork (holdOn f (setTodo [] taken)) =
          setTodo [.write s.composer.cursor w, .call .setModified, .call .charWritten] (holdOn f taken) := by
        rw [heldWork_key (c := ch) (by exact hw), if_pos hch]
        exact heldCharacter_overwrites (s := holdOn f (setTodo [] taken)) rfl (hn ▸ hd) hpr hal hins
      show carryOn 15 (holdTaken f.mark f.len whole (setTodo [] taken)) = _
      rw [holdTaken_found (by exact hl) (.inr ⟨rfl, rfl⟩), hwork]
      exact carryOn_write 14 _ _ _ hu
    · show carryOn 15 (holdTaken m l false (setTodo [] taken)) = _
      rw [holdTaken_other (by exact hl) hne]
      exact carryOn_post 14 .whole .holdWhole (by exact hu)
    · show carryOn 15 (holdUnderWhole (setTodo [] taken)) = _
      rw [holdUnderWhole_found (by exact hl)]
      exact carryOn_post 14 _ .holdNarrow (by exact hu)
  · have hrun := holdLookup_none (s := setTodo [] (rangeTaken r s)) hk hnone
    obtain ⟨-, -, hi, -⟩ := id hdue
    refine ⟨fun code hw => posting_goes hdue ?_, fun i hw => posting_goes hdue ?_⟩
    · rw [hrun, refuse_key _ _ code (by exact hi) (by exact hf) (by exact hw), refusedAt_taken]
      exact carryOn_refusedAt 15 _ _ s
    · rw [hrun, refuse_scan _ _ i (by exact hi) (by exact hf) (by exact hw), refusedAt_taken]
      exact carryOn_nil 15 rfl

end Sys2Proof.Machine
end

section
/-! The lines (chapter 4): the two receivers under one name, a frame's result beside the receiver's own state, and the
keyboard frame (R79 to R83, R108, R109). -/

namespace Sys2Proof.Machine

/-! ### The lines' own part of the state -/

/-- What belongs to the two lines: their receivers and the scanner's formats (chapter 4). -/
structure Lines where
  keyboard : Receiver
  scanner : Receiver
  lineFormat : LineFormat
  pendingFormat : Option LineFormat

/-- The lines' part of a state. -/
def linesOf (s : State) : Lines := ⟨s.keyboard, s.scanner, s.lineFormat, s.pendingFormat⟩

/-- A state with the lines' part replaced. -/
def withLines (n : Lines) (s : State) : State :=
  { s with keyboard := n.keyboard, scanner := n.scanner, lineFormat := n.lineFormat, pendingFormat := n.pendingFormat }

theorem joinClaim_withLines (c : Claim) (n : Lines) (s : State) :
    joinClaim c (withLines n s) = withLines n (joinClaim c s) := by
  obtain ⟨who, fresh⟩ := c
  cases who with
  | held => unfold joinClaim withLines; dsimp only; split <;> rfl
  | slot i => rfl

/-- The claims that join at the end of an event do not read the lines. -/
theorem joinClaims_withLines (n : Lines) (s : State) : joinClaims (withLines n s) = withLines n (joinClaims s) := by
  show joinFrom s.claimOrder (withLines n s) = withLines n (joinFrom s.claimOrder s)
  generalize s.claimOrder = cs
  induction cs generalizing s with
  | nil => rfl
  | cons c cs ih =>
    show (if s.queue.length < Config.queueSize then _ else _) =
      withLines n (if s.queue.length < Config.queueSize then _ else _)
    split
    · rw [joinClaim_withLines, ih]
    · rfl

/-- An event whose effect is n in the lines' part and x elsewhere. -/
theorem linesEvent_runs {can : Bool} {f : State → State} {n : Lines} {s x : State} (hc : can = true)
    (hf : f s = withLines n x) :
    ∃ t, event can f s = .next t ∧ linesOf t = n ∧ besidesStatus t = besidesStatus (withLines n (joinClaims x)) := by
  have hb : besidesStatus (settle s (f s)) = besidesStatus (withLines n (joinClaims x)) := by
    rw [besidesStatus_settle, hf, joinClaims_withLines]
  have hn : linesOf (settle s (f s)) = n := congrArg linesOf hb
  exact ⟨_, event_true can f s hc, hn, hb⟩

/-! ### The causes a frame offers -/

theorem frameBad_iff (fr : FrameResult) : frameBad fr = true ↔ fr.parityError = true ∨ fr.framingError = true := by
  simp [frameBad]

theorem lineError_bad {fr : FrameResult} (h : frameBad fr = true) (s : State) :
    lineError fr s = count .lineError (offer .lineError s) := if_pos h

theorem lineError_good {fr : FrameResult} (h : frameBad fr = false) (s : State) : lineError fr s = s := by
  simp [lineError, h]

/-- LINE ERROR with its count (R79). -/
theorem lineError_offers (s : State) :
    offers 0x08#8 s (count .lineError (offer .lineError s))
      { s with report.counters.lineError := countUp s.report.counters.lineError } := ⟨rfl, rfl, rfl⟩

/-- LOSS with its count (R80, R95). -/
theorem loss_offers (s : State) :
    offers 0x10#8 s (count .lost (offer .loss s)) { s with report.counters.lost := countUp s.report.counters.lost } :=
  ⟨rfl, rfl, rfl⟩

/-! ### The keyboard's result, case by case (R79 to R83) -/

theorem isAssigned_iff (c : Byte) :
    isAssigned c = true ↔
      (0x20 ≤ c.toNat ∧ c.toNat ≤ 0x7E) ∨ (0x80 ≤ c.toNat ∧ c.toNat ≤ 0x8F) ∨ (0xC0 ≤ c.toNat ∧ c.toNat ≤ 0xCC) ∨
        c.toNat = 0xCF := by
  have hclr : c = 0xCF#8 ↔ c.toNat = 0xCF := BitVec.toNat_eq
  simp [isAssigned, isSendCode, isEnterCode, isDataCode, hclr, or_assoc]

/-- The code in the holding stage, its claim in its place (R82, R108). -/
def codeHeld (code : Byte) (s : State) : State :=
  { s with holding := some ⟨code, s.timer.counter⟩, claimOrder := insertHeldClaim s.claimOrder }

section
variable {fr : FrameResult} {s : State}

theorem keyboardResult_bad (h : frameBad fr = true) : keyboardResult fr s = count .lineError (offer .lineError s) := by
  unfold keyboardResult
  rw [if_pos h, lineError_bad h]

theorem keyboardResult_unassigned (h : frameBad fr = false) (ha : isAssigned fr.code = false) : keyboardResult fr s = s := by
  simp [keyboardResult, h, ha]

variable (h : frameBad fr = false) (ha : isAssigned fr.code = true)
include h ha

theorem keyboardResult_overrun {c : HeldCode} (hh : s.holding = some c) :
    keyboardResult fr s = count .lost (offer .loss s) := by
  simp [keyboardResult, h, ha, hh]

theorem keyboardResult_held (hh : s.holding = none) : keyboardResult fr s = codeHeld fr.code s := by
  simp [keyboardResult, h, ha, hh, codeHeld]

end

/-- With a place free in the queue the held code's token joins at once (R83, R109). -/
theorem joinClaims_codeHeld_room {code : Byte} {s : State} (hj : claimsJoined s) (hh : s.holding = none)
    (hq : s.queue.length < 32) :
    joinClaims (codeHeld code s) = { s with queue := s.queue ++ [.key code], claimOrder := [] } := by
  have ho : s.claimOrder = [] := hj.resolve_right (by simp only [Config.queueSize]; omega)
  have hc : (codeHeld code s).claimOrder = [⟨.held, true⟩] := by simp [codeHeld, ho, insertHeldClaim]
  have hroom : (codeHeld code s).queue.length < Config.queueSize := hq
  unfold joinClaims
  rw [hc, joinFrom, if_pos hroom]
  show ({ s with queue := s.queue ++ [.key code], claimOrder := [], holding := none } : State) = _
  rw [← hh]

/-- With the queue full the claim waits in its place (R82, R108). -/
theorem joinClaims_codeHeld_full {code : Byte} {s : State} (hq : 32 ≤ s.queue.length) :
    joinClaims (codeHeld code s) = codeHeld code s := joinClaims_id _ (.inr hq)

/-- The keyboard's result does not read the lines. -/
theorem keyboardResult_withLines (fr : FrameResult) (n : Lines) (s : State) :
    keyboardResult fr (withLines n s) = withLines n (keyboardResult fr s) := by
  cases hb : frameBad fr with
  | true => rw [keyboardResult_bad hb, keyboardResult_bad hb]; rfl
  | false =>
    cases ha : isAssigned fr.code with
    | false => rw [keyboardResult_unassigned hb ha, keyboardResult_unassigned hb ha]
    | true =>
      cases hh : s.holding with
      | some c => rw [keyboardResult_overrun hb ha hh, keyboardResult_overrun (s := withLines n s) hb ha hh]; rfl
      | none => rw [keyboardResult_held hb ha hh, keyboardResult_held (s := withLines n s) hb ha hh]; rfl

/-! ### The frame -/

theorem rxAfterFrame_state (fr : FrameResult) (r : Receiver) :
    (rxAfterFrame fr r).state = if fr.framingError then .recover else .idle := by
  unfold rxAfterFrame
  dsimp only
  split <;> rfl

/-- KEYBOARD_FRAME: the receiver after the frame, and the frame's result. -/
theorem keyboardFrame_runs (fr : FrameResult) {s : State} (hc : s.coldAsserted = false) :
    ∃ t, exec (.keyboardFrame fr.code fr.parityError fr.framingError) s = .next t ∧
      linesOf t = linesOf (withRx .kbd (rxAfterFrame fr s.keyboard) s) ∧
      besidesStatus t =
        besidesStatus
          (withLines (linesOf (withRx .kbd (rxAfterFrame fr s.keyboard) s)) (joinClaims (keyboardResult fr s))) :=
  linesEvent_runs (f := keyboardCompletes fr) (by simp [hc])
    (keyboardResult_withLines fr (linesOf (withRx .kbd (rxAfterFrame fr s.keyboard) s)) s)

/-- Settles O24: the five cases of a keyboard frame's result, the claim joined or waiting in its place. -/
theorem keyboardFrameTable : Obligations.KeyboardFrameTable := by
  intro s code pe fe hj hc assigned
  obtain ⟨t, ht, hn, hb⟩ := keyboardFrame_runs ⟨code, pe, fe⟩ hc
  have hrx : rxAfterFrame ⟨code, pe, fe⟩ s.keyboard = t.keyboard := (congrArg Lines.keyboard hn).symm
  rw [hrx] at hb
  have hassigned : isAssigned code = true ↔ assigned := isAssigned_iff code
  have hgood (hpe : pe = false) (hfe : fe = false) : frameBad ⟨code, pe, fe⟩ = false := by simp [frameBad, hpe, hfe]
  have offered {m : Byte} {x y : State} (hx : keyboardResult ⟨code, pe, fe⟩ s = x) (hxj : claimsJoined x)
      (ho : offers m s x y) : offers m s t (withLines (linesOf (withRx .kbd t.keyboard s)) y) := by
    obtain ⟨hp, hs, hy⟩ := ho
    rw [hx, joinClaims_id x hxj] at hb
    exact offers_congr hb ⟨hp, hs, congrArg (withLines (linesOf (withRx .kbd t.keyboard s))) hy⟩
  refine ⟨t, ht, hrx ▸ rxAfterFrame_state _ _, fun hbad => ?_,
    fun hpe hfe => ⟨fun hna => ?_, fun ha => ⟨?_, ?_, ?_⟩⟩⟩
  · exact offered (keyboardResult_bad ((frameBad_iff _).2 hbad)) hj (lineError_offers s)
  · have hcode : isAssigned code = false := Bool.eq_false_iff.2 fun h => hna (hassigned.1 h)
    rw [hb, keyboardResult_unassigned (hgood hpe hfe) hcode, joinClaims_id s hj]
    rfl
  · intro h hh
    exact offered (keyboardResult_overrun (hgood hpe hfe) (hassigned.2 ha) hh) hj (loss_offers s)
  · intro hh hq
    rw [hb, keyboardResult_held (hgood hpe hfe) (hassigned.2 ha) hh, joinClaims_codeHeld_room hj hh hq]
    rfl
  · intro hh hq
    rw [hb, keyboardResult_held (hgood hpe hfe) (hassigned.2 ha) hh, joinClaims_codeHeld_full hq]
    rfl

end Sys2Proof.Machine
end

section
/-! The scanner frame (R85, R86, R94 to R97): the pending format taken, and the frame collected. -/

namespace Sys2Proof.Machine

/-! ### The line format at an entry into IDLE (R86) -/

theorem takeFormat_eq (s : State) : takeFormat s = formatTaken .scn s := by
  unfold takeFormat formatTaken
  cases h : s.pendingFormat with
  | some f => rfl
  | none => dsimp only; rw [Option.getD_none, ← h]

/-- The line after its receiver has passed from a state to r: an entry into IDLE takes the pending format (R86). -/
def rxPassed (l : Line) (before : RxState) (r : Receiver) (s : State) : State :=
  if before ≠ .idle ∧ r.state = .idle then formatTaken l (withRx l r s) else withRx l r s

theorem rxPassed_kbd (before : RxState) (r : Receiver) (s : State) : rxPassed .kbd before r s = withRx .kbd r s := ite_self _

theorem formatAtIdle_withRx (before : RxState) (r : Receiver) (s : State) :
    formatAtIdle before (withRx .scn r s) = rxPassed .scn before r s := by
  unfold formatAtIdle rxPassed
  rw [takeFormat_eq]
  by_cases h : before ≠ .idle ∧ r.state = .idle
  · rw [if_pos h, if_pos (by simpa [withRx] using h)]
  · rw [if_neg h, if_neg (by simpa [withRx] using h)]

/-- A receiver and its line's formats are the lines' own part of the state. -/
theorem rxPassed_lines (l : Line) (before : RxState) (r : Receiver) (s : State) :
    rxPassed l before r s = withLines (linesOf (rxPassed l before r s)) s := by
  unfold rxPassed
  split <;> cases l <;> rfl

/-! ### The collector (R94 to R97) -/

theorem isTerminator_iff (fr : FrameResult) (s : State) :
    isTerminator fr s = true ↔
      s.terminator ≠ 0xFF#8 ∧ fr.code = s.terminator ∧ fr.parityError = false ∧ fr.framingError = false := by
  simp [isTerminator, frameBad, and_assoc]

/-- The scan of slot i ended by a frame: its stamp taken, the gap compare disarmed (R97). -/
def scanStamped (i : Fin 4) (s : State) : State :=
  { s with
    collecting := .none, timer.gap := none,
    slots := setSlot s.slots i { getSlot s.slots i with stamp := some s.timer.counter } }

section
variable {fr : FrameResult} {s : State}

theorem collectFrame_terminator_none (h : isTerminator fr s = true) (hc : s.collecting = .none) : collectFrame fr s = s := by
  simp [collectFrame, hc, h]

theorem collectFrame_terminator_losing (h : isTerminator fr s = true) (hc : s.collecting = .losing) :
    collectFrame fr s = { s with collecting := .none, timer.gap := none } := by
  simp [collectFrame, hc, h, terminateScan, endScan]

theorem collectFrame_terminates {i : Fin 4} (h : isTerminator fr s = true) (hc : s.collecting = .collecting i) :
    collectFrame fr s = judgeScan i s.timer.counter (scanStamped i s) := by
  simp [collectFrame, hc, h, terminateScan, endScan, scanStamped]

variable (h : isTerminator fr s = false)
include h

theorem collectFrame_starts {i : Fin 4} (hc : s.collecting = .none) (hf : lowestFree s.slots = some i) :
    collectFrame fr s =
      appendFrame i fr { s with collecting := .collecting i, slots := setSlot s.slots i claimedSlot } := by
  simp [collectFrame, hc, h, startScan, hf]

theorem collectFrame_loses (hc : s.collecting = .none) (hf : lowestFree s.slots = none) :
    collectFrame fr s = armGap (count .lost (offer .loss { s with collecting := .losing })) := by
  simp [collectFrame, hc, h, startScan, hf]

theorem collectFrame_appends {i : Fin 4} (hc : s.collecting = .collecting i) : collectFrame fr s = appendFrame i fr s := by
  simp [collectFrame, hc, h]

theorem collectFrame_discards (hc : s.collecting = .losing) : collectFrame fr s = armGap s := by
  simp [collectFrame, hc, h]

end

/-- A frame is appended to its slot, the other slots, the scan in progress and the report unit as they were (R96). -/
theorem appendFrame_frame (i : Fin 4) (fr : FrameResult) (s : State) :
    (appendFrame i fr s).collecting = s.collecting ∧
      getSlot (appendFrame i fr s).slots i = storeFrame fr (getSlot s.slots i) ∧
      (∀ j, j ≠ i → getSlot (appendFrame i fr s).slots j = getSlot s.slots j) ∧
      (appendFrame i fr s).report = s.report :=
  ⟨rfl, (getSlot_setSlot _ _ _ _).trans (if_pos rfl), fun _ hj => (getSlot_setSlot _ _ _ _).trans (if_neg hj), rfl⟩

/-- A FREE slot below which none is FREE is the one a scan claims (R95). -/
theorem lowestFree_of_least {v : Slots} {i : Fin 4} (hi : (getSlot v i).state = .free)
    (hl : ∀ j < i, (getSlot v j).state ≠ .free) : lowestFree v = some i := by
  cases h : lowestFree v with
  | none => exact absurd hi ((lowestFree_none v).1 h i)
  | some k =>
    obtain ⟨hk, hmin⟩ := lowestFree_some v k h
    rcases lt_trichotomy k i with hlt | heq | hgt
    · exact absurd hk (hl k hlt)
    · rw [heq]
    · exact absurd hi (hmin i hgt)

/-- What a frame that is not a terminator frame may change besides the causes: the scan in progress and its slot, the
gap compare, and the LOST counter (R95, R96). -/
def collectedFrom (s x : State) : Prop :=
  besidesCauses x =
    besidesCauses
      { s with
        collecting := x.collecting, slots := x.slots, timer.gap := some (s.timer.counter + s.timer.gapLimit),
        report.counters.lost := x.report.counters.lost }

theorem collectFrame_collected {fr : FrameResult} {s : State} (h : isTerminator fr s = false) :
    collectedFrom s (collectFrame fr s) := by
  cases hc : s.collecting with
  | none =>
    cases hf : lowestFree s.slots with
    | none => rw [collectFrame_loses h hc hf]; rfl
    | some i => rw [collectFrame_starts h hc hf]; rfl
  | collecting i => rw [collectFrame_appends h hc]; rfl
  | losing => rw [collectFrame_discards h hc]; rfl

/-! ### The collector does not read the lines -/

theorem judgeScan_withLines (i : Fin 4) (stamp : Word) (n : Lines) (s : State) :
    judgeScan i stamp (withLines n s) = withLines n (judgeScan i stamp s) := by
  unfold judgeScan
  split
  next h => rw [if_pos (by exact h)]; rfl
  next h => rw [if_neg (by exact h)]; rfl

theorem collectFrame_withLines (fr : FrameResult) (n : Lines) (s : State) :
    collectFrame fr (withLines n s) = withLines n (collectFrame fr s) := by
  cases ht : isTerminator fr s with
  | true =>
    cases hc : s.collecting with
    | none => rw [collectFrame_terminator_none ht hc, collectFrame_terminator_none (s := withLines n s) ht hc]
    | losing => rw [collectFrame_terminator_losing ht hc, collectFrame_terminator_losing (s := withLines n s) ht hc]; rfl
    | collecting i =>
      rw [collectFrame_terminates ht hc, collectFrame_terminates (s := withLines n s) ht hc]
      exact judgeScan_withLines i _ n (scanStamped i s)
  | false =>
    cases hc : s.collecting with
    | none =>
      cases hf : lowestFree s.slots with
      | none => rw [collectFrame_loses ht hc hf, collectFrame_loses (s := withLines n s) ht hc hf]; rfl
      | some i => rw [collectFrame_starts ht hc hf, collectFrame_starts (s := withLines n s) ht hc hf]; rfl
    | collecting i => rw [collectFrame_appends ht hc, collectFrame_appends (s := withLines n s) ht hc]; rfl
    | losing => rw [collectFrame_discards ht hc, collectFrame_discards (s := withLines n s) ht hc]; rfl

/-- The scanner's result does not read the lines. -/
theorem scannerResult_withLines (fr : FrameResult) (n : Lines) (s : State) :
    scannerResult fr (withLines n s) = withLines n (scannerResult fr s) := by
  have hl : lineError fr (withLines n s) = withLines n (lineError fr s) := by unfold lineError; split <;> rfl
  unfold scannerResult
  rw [hl, collectFrame_withLines]

/-! ### The result of a frame that is collected -/

theorem scannerResult_good {fr : FrameResult} (h : frameBad fr = false) (s : State) :
    scannerResult fr s = collectFrame fr s :=
  congrArg (collectFrame fr) (lineError_good h s)

/-- A frame's own error changes the report unit and ATTN before it is collected (R79). -/
theorem lineError_keeps (fr : FrameResult) (s : State) : ∃ rep at',
    lineError fr s = { s with report := rep, attn := at' } ∧
      rep.pending = (if frameBad fr then s.report.pending ||| 0x08#8 else s.report.pending) ∧
      rep.counters.lost = s.report.counters.lost := by
  cases hb : frameBad fr with
  | true => rw [lineError_bad hb]; exact ⟨_, _, rfl, rfl, rfl⟩
  | false => rw [lineError_good hb]; exact ⟨_, _, rfl, rfl, rfl⟩

/-- Besides the causes, a frame that is not a terminator frame is collected and its error counted (R79, R95, R96). -/
theorem scannerResult_collected {fr : FrameResult} {s : State} (h : isTerminator fr s = false) :
    collectedFrom
      { s with
        report.counters.lineError :=
          if frameBad fr then countUp s.report.counters.lineError else s.report.counters.lineError }
      (scannerResult fr s) := by
  unfold scannerResult
  cases hb : frameBad fr with
  | true => rw [lineError_bad hb]; exact (collectFrame_collected (s := count .lineError (offer .lineError s)) h).trans rfl
  | false => rw [lineError_good hb]; exact collectFrame_collected h

/-- The pending causes after a frame's own error has been offered (R79). -/
def causesWith (fr : FrameResult) (s : State) : Byte :=
  if frameBad fr then s.report.pending ||| 0x08#8 else s.report.pending

section
variable {fr : FrameResult} {s : State} (h : isTerminator fr s = false)
include h

/-- A frame with no scan in progress and a FREE slot starts a scan there (R95). -/
theorem scannerResult_starts {i : Fin 4} (hc : s.collecting = .none) (hf : lowestFree s.slots = some i) :
    (scannerResult fr s).collecting = .collecting i ∧
      getSlot (scannerResult fr s).slots i = storeFrame fr claimedSlot ∧
      (∀ j, j ≠ i → getSlot (scannerResult fr s).slots j = getSlot s.slots j) ∧
      (scannerResult fr s).report.pending = causesWith fr s ∧
      (scannerResult fr s).report.counters.lost = s.report.counters.lost := by
  obtain ⟨rep, at', hz, hcauses, hcount⟩ := lineError_keeps fr s
  obtain ⟨hcoll, hslot, hothers, hrep⟩ := appendFrame_frame i fr
    { s with report := rep, attn := at', collecting := .collecting i, slots := setSlot s.slots i claimedSlot }
  rw [scannerResult, hz, collectFrame_starts (s := { s with report := rep, attn := at' }) h hc hf, hrep]
  refine ⟨hcoll, hslot.trans ?_, fun j hji => (hothers j hji).trans ?_, hcauses, hcount⟩
  · exact congrArg (storeFrame fr) ((getSlot_setSlot _ _ _ _).trans (if_pos rfl))
  · exact (getSlot_setSlot _ _ _ _).trans (if_neg hji)

/-- With no slot FREE the scan is lost: LOSS and its count (R95). -/
theorem scannerResult_loses (hc : s.collecting = .none) (hf : lowestFree s.slots = none) :
    (scannerResult fr s).collecting = .losing ∧ (scannerResult fr s).slots = s.slots ∧
      (scannerResult fr s).report.pending = causesWith fr s ||| 0x10#8 ∧
      (scannerResult fr s).report.counters.lost = countUp s.report.counters.lost := by
  obtain ⟨rep, at', hz, hcauses, hcount⟩ := lineError_keeps fr s
  rw [scannerResult, hz, collectFrame_loses (s := { s with report := rep, attn := at' }) h hc hf]
  exact ⟨rfl, rfl, congrArg (· ||| 0x10#8) hcauses, congrArg countUp hcount⟩

/-- A frame of a scan in progress is appended to its slot (R96). -/
theorem scannerResult_appends {i : Fin 4} (hc : s.collecting = .collecting i) :
    (scannerResult fr s).collecting = .collecting i ∧
      getSlot (scannerResult fr s).slots i = storeFrame fr (getSlot s.slots i) ∧
      (∀ j, j ≠ i → getSlot (scannerResult fr s).slots j = getSlot s.slots j) ∧
      (scannerResult fr s).report.pending = causesWith fr s ∧
      (scannerResult fr s).report.counters.lost = s.report.counters.lost := by
  obtain ⟨rep, at', hz, hcauses, hcount⟩ := lineError_keeps fr s
  obtain ⟨hcoll, hslot, hothers, hrep⟩ := appendFrame_frame i fr { s with report := rep, attn := at' }
  rw [scannerResult, hz, collectFrame_appends (s := { s with report := rep, attn := at' }) h hc, hrep]
  exact ⟨hcoll.trans hc, hslot, hothers, hcauses, hcount⟩

/-- A frame of a lost scan is discarded (R95). -/
theorem scannerResult_discards (hc : s.collecting = .losing) :
    (scannerResult fr s).collecting = .losing ∧ (scannerResult fr s).slots = s.slots ∧
      (scannerResult fr s).report.pending = causesWith fr s ∧
      (scannerResult fr s).report.counters.lost = s.report.counters.lost := by
  obtain ⟨rep, at', hz, hcauses, hcount⟩ := lineError_keeps fr s
  rw [scannerResult, hz, collectFrame_discards (s := { s with report := rep, attn := at' }) h hc]
  exact ⟨hc, rfl, hcauses, hcount⟩

end

/-! ### The frame -/

/-- The lines after a scanner frame: the receiver after it, the pending format taken if the receiver has entered IDLE,
out of RECOVER before the frame or with its stop bit (R77, R86, log 9). -/
def linesAfterFrame (fr : FrameResult) (s : State) : Lines :=
  if s.scanner.state = .recover ∨ fr.framingError = false then
    linesOf (formatTaken .scn (withRx .scn (rxAfterFrame fr s.scanner) s))
  else linesOf (withRx .scn (rxAfterFrame fr s.scanner) s)

theorem linesAfterFrame_receivers (fr : FrameResult) (s : State) :
    (linesAfterFrame fr s).keyboard = s.keyboard ∧ (linesAfterFrame fr s).scanner = rxAfterFrame fr s.scanner := by
  unfold linesAfterFrame
  split <;> exact ⟨rfl, rfl⟩

theorem beforeScannerFrame_recover {s : State} (h : s.scanner.state = .recover) :
    beforeScannerFrame s = formatTaken .scn s := by
  simp [beforeScannerFrame, h, takeFormat_eq]

theorem beforeScannerFrame_other {s : State} (h : s.scanner.state ≠ .recover) : beforeScannerFrame s = s := by
  simp [beforeScannerFrame, h]

theorem rxPassed_idle {l : Line} {before : RxState} {r : Receiver} (hb : before ≠ .idle) (hr : r.state = .idle)
    (s : State) : rxPassed l before r s = formatTaken l (withRx l r s) := if_pos ⟨hb, hr⟩

theorem rxPassed_other {l : Line} {before : RxState} {r : Receiver} (h : before = .idle ∨ r.state ≠ .idle) (s : State) :
    rxPassed l before r s = withRx l r s := if_neg fun ⟨hb, hr⟩ => h.elim hb fun h => h hr

/-- The receiver's passage out of a frame, from the state in which the frame started. -/
theorem rxPassed_afterFrame (fr : FrameResult) (s : State) :
    rxPassed .scn .stop (rxAfterFrame fr s.scanner) (beforeScannerFrame s) = withLines (linesAfterFrame fr s) s := by
  have hstate := rxAfterFrame_state fr s.scanner
  unfold linesAfterFrame
  by_cases hr : s.scanner.state = .recover
  · rw [beforeScannerFrame_recover hr, if_pos (.inl hr)]
    unfold rxPassed
    split <;> rfl
  · rw [beforeScannerFrame_other hr]
    cases hf : fr.framingError with
    | false =>
      rw [hf] at hstate
      rw [rxPassed_idle (before := .stop) (by decide) hstate, if_pos (.inr rfl)]
      rfl
    | true =>
      rw [hf] at hstate
      rw [rxPassed_other (.inr (by rw [hstate]; exact nofun)), if_neg (by simp [hr])]
      rfl

theorem scannerCompletes_eq (fr : FrameResult) (s : State) :
    scannerCompletes fr s = withLines (linesAfterFrame fr s) (scannerResult fr s) := by
  have hrx : (beforeScannerFrame s).scanner = s.scanner := by
    unfold beforeScannerFrame
    rw [takeFormat_eq]
    split <;> rfl
  show scannerResult fr
    (formatAtIdle .stop (withRx .scn (rxAfterFrame fr (beforeScannerFrame s).scanner) (beforeScannerFrame s))) = _
  rw [hrx, formatAtIdle_withRx, rxPassed_afterFrame, scannerResult_withLines]

theorem frameFits_of {f : LineFormat} {fr : FrameResult} (hc : f.eight = true ∨ fr.code.toNat < 0x80)
    (hp : fr.parityError = true → f.parity ≠ .none) : frameFits f fr = true := by
  cases hpe : fr.parityError with
  | false => simpa [frameFits, hpe] using hc
  | true => simpa [frameFits, hpe, hp hpe] using hc

/-- SCANNER_FRAME: the lines after the frame, and the frame's result. -/
theorem scannerFrame_runs {fr : FrameResult} {s : State} (hc : s.coldAsserted = false)
    (hf : frameFits (beforeScannerFrame s).lineFormat fr = true) :
    ∃ t, exec (.scannerFrame fr.code fr.parityError fr.framingError) s = .next t ∧ linesOf t = linesAfterFrame fr s ∧
      besidesStatus t = besidesStatus (withLines (linesAfterFrame fr s) (joinClaims (scannerResult fr s))) :=
  linesEvent_runs (f := scannerCompletes fr) (by simp [hc, hf]) (scannerCompletes_eq fr s)

theorem beforeScannerFrame_format (s : State) :
    (beforeScannerFrame s).lineFormat =
      if s.scanner.state = .recover then s.pendingFormat.getD s.lineFormat else s.lineFormat := by
  by_cases h : s.scanner.state = .recover
  · rw [beforeScannerFrame_recover h, if_pos h]; rfl
  · rw [beforeScannerFrame_other h, if_neg h]

/-- Settles O25: the entry into IDLE, a terminator frame outside a scan, and the four ways a frame is collected. -/
theorem scannerFrameCollected : Obligations.ScannerFrameCollected := by
  intro s code pe fe hj hc format hcode hparity entersIdle terminates store fresh causes
  obtain ⟨t, ht, hn, hb⟩ := scannerFrame_runs (fr := ⟨code, pe, fe⟩) hc
    (frameFits_of (by rw [beforeScannerFrame_format]; exact hcode) (by rw [beforeScannerFrame_format]; exact hparity))
  have hterm : isTerminator ⟨code, pe, fe⟩ s = true ↔ terminates := isTerminator_iff _ s
  obtain ⟨hkbd, hscn⟩ := linesAfterFrame_receivers ⟨code, pe, fe⟩ s
  rw [← hn] at hkbd hscn hb
  have hlines (x : State) (hx : x.keyboard = s.keyboard) :
      withLines (linesOf t) x =
        { x with scanner := t.scanner, lineFormat := t.lineFormat, pendingFormat := t.pendingFormat } := by
    rw [← hx] at hkbd
    unfold withLines
    rw [hkbd]
    rfl
  refine ⟨t, ht, fun he => ?_, fun he => ?_, ?_, fun hte => ?_, fun hnt => ?_⟩
  · rw [linesAfterFrame, if_pos (by exact he)] at hn
    exact ⟨congrArg Lines.lineFormat hn, congrArg Lines.pendingFormat hn⟩
  · rw [linesAfterFrame, if_neg (by exact he)] at hn
    exact ⟨congrArg Lines.lineFormat hn, congrArg Lines.pendingFormat hn⟩
  · exact (congrArg Receiver.state hscn).trans (rxAfterFrame_state _ _)
  · have hgood : frameBad ⟨code, pe, fe⟩ = false := by
      obtain ⟨-, -, hpe, hfe⟩ := hte
      simp [frameBad, hpe, hfe]
    rw [scannerResult_good hgood] at hb
    refine ⟨fun hcn => ?_, fun hcn => ?_⟩
    · rw [hb, collectFrame_terminator_none (hterm.2 hte) hcn, joinClaims_id s hj, hlines s rfl]
    · rw [hb, collectFrame_terminator_losing (hterm.2 hte) hcn, joinClaims_id _ (by exact hj)]
      exact congrArg besidesStatus (hlines _ rfl)
  · have hnt' : isTerminator ⟨code, pe, fe⟩ s = false := Bool.eq_false_iff.2 fun h => hnt (hterm.1 h)
    have hcol := scannerResult_collected hnt'
    have hjx : claimsJoined (scannerResult ⟨code, pe, fe⟩ s) :=
      claimsJoined_of_queue hj (by have h := congrArg State.claimOrder hcol; exact h)
        (by have h := congrArg State.queue hcol; exact h)
    rw [joinClaims_id _ hjx] at hb
    have keeps {α : Type} (g : State → α) : g (besidesStatus t) = g (besidesStatus (withLines (linesOf t) _)) :=
      congrArg g hb
    have hcoll : t.collecting = (scannerResult ⟨code, pe, fe⟩ s).collecting := keeps State.collecting
    have hslots : t.slots = (scannerResult ⟨code, pe, fe⟩ s).slots := keeps State.slots
    have hpend : t.report.pending = (scannerResult ⟨code, pe, fe⟩ s).report.pending := keeps fun y => y.report.pending
    have hlost : t.report.counters.lost = (scannerResult ⟨code, pe, fe⟩ s).report.counters.lost :=
      keeps fun y => y.report.counters.lost
    refine ⟨?_, fun hcn => ⟨fun i hi hl => ?_, fun hfull => ?_⟩, fun i hci => ?_, fun hcl => ?_⟩ <;>
      rw [hcoll, hslots]
    · rw [hlost]
      refine (besidesCauses_congr hb).trans ((congrArg (withLines (linesOf t)) hcol).trans ?_)
      exact hlines (besidesCauses _) rfl
    · rw [hpend, hlost]
      exact scannerResult_starts hnt' hcn (lowestFree_of_least hi hl)
    · rw [hpend, hlost]
      exact scannerResult_loses hnt' hcn ((lowestFree_none _).2 hfull)
    · rw [hpend, hlost]
      exact scannerResult_appends hnt' hci
    · rw [hpend, hlost]
      exact scannerResult_discards hnt' hcl

end Sys2Proof.Machine
end

section
/-! Samples of a line (R73 to R78): the receiver after one sample, and the frame that its last sample completes. -/

namespace Sys2Proof.Machine

/-! ### One sample, state by state -/

/-- A receiver in a frame (R73). -/
def inFrame (r : Receiver) : Prop := r.state = .startCheck ∨ r.state = .data ∨ r.state = .parity ∨ r.state = .stop

/-- The receiver after the third judged sample of a bit, before the bit is judged (R74). -/
def thirdVote (mark : Bool) (r : Receiver) : Receiver :=
  { r with sample := r.sample + 1, votes := r.votes + mark.toNat }

section
variable {f : LineFormat} {mark : Bool} {r : Receiver}

theorem sampleRx_idle_mark (hm : mark = true) (h : r.state = .idle) :
    sampleRx f mark r = ({ r with seenIdle := true }, none) := by
  simp [sampleRx, h, idleSample, hm]

theorem sampleRx_idle_unseen (hm : mark = false) (h : r.state = .idle) (hs : r.seenIdle = false) :
    sampleRx f mark r = (r, none) := by
  simp [sampleRx, h, idleSample, hm, hs]

theorem sampleRx_idle_edge (hm : mark = false) (h : r.state = .idle) (hs : r.seenIdle = true) :
    sampleRx f mark r = (startEdge r, none) := by
  simp [sampleRx, h, idleSample, hm, hs]

theorem sampleRx_recover (h : r.state = .recover) : sampleRx f mark r = (recoverSample mark r, none) := by
  simp [sampleRx, h]

theorem sampleRx_recover_more (hm : mark = true) (h : r.state = .recover) (hr : r.run + 1 ≠ 16) :
    sampleRx f mark r = ({ r with run := r.run + 1 }, none) := by
  rw [sampleRx_recover h, hm]
  simp only [recoverSample, if_true, if_neg hr]

theorem sampleRx_recover_last (hm : mark = true) (h : r.state = .recover) (hr : r.run + 1 = 16) :
    sampleRx f mark r = (idleRx { r with run := 16 }, none) := by
  rw [sampleRx_recover h, hm]
  simp only [recoverSample, if_true, if_pos hr]

theorem sampleRx_recover_space (hm : mark = false) (h : r.state = .recover) :
    sampleRx f mark r = ({ r with run := 0 }, none) := by
  rw [sampleRx_recover h, hm]
  rfl

theorem sampleRx_inFrame (h : inFrame r) : sampleRx f mark r = frameSample f mark r := by
  unfold sampleRx
  rcases h with h | h | h | h <;> rw [h]

variable (h : inFrame r)
include h

theorem sampleRx_between (h7 : (r.sample + 1) % 16 ≠ 7) (h8 : (r.sample + 1) % 16 ≠ 8) (h9 : (r.sample + 1) % 16 ≠ 9) :
    sampleRx f mark r = ({ r with sample := r.sample + 1 }, none) := by
  rw [sampleRx_inFrame h]
  unfold frameSample
  dsimp only
  split
  next h => exact absurd h h7
  next h => exact absurd h h8
  next h => exact absurd h h9
  next => rfl

theorem sampleRx_first (h7 : (r.sample + 1) % 16 = 7) :
    sampleRx f mark r = ({ r with sample := r.sample + 1, votes := mark.toNat }, none) := by
  rw [sampleRx_inFrame h]
  simp [frameSample, h7]

theorem sampleRx_second (h8 : (r.sample + 1) % 16 = 8) :
    sampleRx f mark r = ({ r with sample := r.sample + 1, votes := r.votes + mark.toNat }, none) := by
  rw [sampleRx_inFrame h]
  simp [frameSample, h8]

theorem sampleRx_third (h9 : (r.sample + 1) % 16 = 9) :
    sampleRx f mark r =
      judgeBit f ((r.sample + 1) / 16) (decide (2 ≤ r.votes + mark.toNat)) (thirdVote mark r) := by
  rw [sampleRx_inFrame h]
  simp [frameSample, h9, thirdVote]

end

/-! ### A bit judged, state by state (R74 to R77) -/

section
variable {f : LineFormat} {b : Nat} {bit : Bool} {r : Receiver}

theorem judgeBit_startCheck (h : r.state = .startCheck) :
    judgeBit f b bit r = (if bit then idleRx r else { r with state := .data }, none) := by simp [judgeBit, h]

theorem judgeBit_data_more (h : r.state = .data) (hb : b < dataBits f) :
    judgeBit f b bit r = ({ r with shift := shiftIn r.shift b bit }, none) := by simp [judgeBit, h, hb]

theorem judgeBit_data_last (h : r.state = .data) (hb : dataBits f ≤ b) :
    judgeBit f b bit r =
      ({ r with shift := shiftIn r.shift b bit, state := if f.parity = .none then .stop else .parity }, none) := by
  have hb' : ¬b < dataBits f := by omega
  simp only [judgeBit, h, if_neg hb']
  cases f.parity <;> rfl

theorem judgeBit_parity (h : r.state = .parity) :
    judgeBit f b bit r = ({ r with state := .stop, parityError := parityFails f.parity r.shift bit }, none) := by
  simp [judgeBit, h]

theorem judgeBit_stop {fe : Bool} (h : r.state = .stop) (hbit : bit = !fe) :
    judgeBit f b bit r = (if fe then recoverRx r else idleRx r, some ⟨r.shift, r.parityError, fe⟩) := by
  subst hbit
  cases fe <;> simp [judgeBit, h]

end

/-- The parity test against the number of 1s that the parity wants (R76). -/
theorem parityFails_eq {p : Parity} (hp : p ≠ .none) (c : Byte) (bit : Bool) :
    parityFails p c bit = decide ((onesOf c + bit.toNat) % 2 ≠ if p = .odd then 1 else 0) := by
  cases p with
  | none => exact absurd rfl hp
  | even | odd =>
    simp only [parityFails, reduceCtorEq, if_true, if_false]
    grind

theorem toNat_eq_ite (b : Bool) (p : Prop) [Decidable p] (h : b = true ↔ p) : b.toNat = if p then 1 else 0 := by
  by_cases hp : p
  · rw [if_pos hp, h.2 hp]; rfl
  · rw [if_neg hp, Bool.eq_false_iff.2 (mt h.1 hp)]; rfl

/-! ### The command -/

/-- A completed frame's result, on its line (R80, R85). -/
def lineResult (l : Line) (fr : FrameResult) (s : State) : State :=
  match l with
  | .kbd => keyboardResult fr s
  | .scn => scannerResult fr s

/-- A completed frame, on its line. -/
def lineFrame (l : Line) (fr : FrameResult) : Instr :=
  match l with
  | .kbd => .keyboardFrame fr.code fr.parityError fr.framingError
  | .scn => .scannerFrame fr.code fr.parityError fr.framingError

theorem lineResult_withLines (l : Line) (fr : FrameResult) (n : Lines) (s : State) :
    lineResult l fr (withLines n s) = withLines n (lineResult l fr s) := by
  cases l with
  | kbd => exact keyboardResult_withLines fr n s
  | scn => exact scannerResult_withLines fr n s

section
variable {l : Line} {level : Level} {s : State} {r : Receiver}

/-- A sample that completes no frame. -/
theorem lineSampled_rx (h : sampleRx (formatOf l s) (level == .mark) (rxOf l s) = (r, none)) :
    lineSampled l (level == .mark) s = rxPassed l (rxOf l s).state r s := by
  cases l with
  | kbd =>
    rw [rxPassed_kbd]
    unfold lineSampled keyboardSample
    rw [show sampleRx keyboardFormat _ s.keyboard = _ from h]
    rfl
  | scn =>
    unfold lineSampled scannerSample
    rw [show sampleRx s.lineFormat _ s.scanner = _ from h]
    exact formatAtIdle_withRx _ _ _

/-- The sample that completes a frame. -/
theorem lineSampled_frame {fr : FrameResult}
    (h : sampleRx (formatOf l s) (level == .mark) (rxOf l s) = (r, some fr)) :
    lineSampled l (level == .mark) s = lineResult l fr (rxPassed l (rxOf l s).state r s) := by
  cases l with
  | kbd =>
    rw [rxPassed_kbd]
    unfold lineSampled keyboardSample
    rw [show sampleRx keyboardFormat _ s.keyboard = _ from h]
    rfl
  | scn =>
    unfold lineSampled scannerSample
    rw [show sampleRx s.lineFormat _ s.scanner = _ from h]
    exact congrArg (scannerResult fr) (formatAtIdle_withRx _ _ _)

variable (hc : s.coldAsserted = false)
include hc

/-- A sample that completes no frame changes the line alone. -/
theorem lineSample_runs (hj : claimsJoined s)
    (h : sampleRx (formatOf l s) (level == .mark) (rxOf l s) = (r, none)) :
    ∃ t, exec (.lineSample l level) s = .next t ∧ besidesStatus t = besidesStatus (rxPassed l (rxOf l s).state r s) := by
  have hx := (lineSampled_rx h).trans (rxPassed_lines l _ r s)
  obtain ⟨t, ht, -, hb⟩ := linesEvent_runs (can := !s.coldAsserted) (f := lineSampled l (level == .mark))
    (by simp [hc]) hx
  rw [joinClaims_id s hj, ← rxPassed_lines] at hb
  exact ⟨t, ht, hb⟩

theorem lineSample_stays (hj : claimsJoined s) (h : sampleRx (formatOf l s) (level == .mark) (rxOf l s) = (r, none))
    (hs : (rxOf l s).state = .idle ∨ r.state ≠ .idle) :
    ∃ t, exec (.lineSample l level) s = .next t ∧ besidesStatus t = besidesStatus (withRx l r s) := by
  rw [← rxPassed_other hs]
  exact lineSample_runs hc hj h

theorem lineSample_enters (hj : claimsJoined s) (h : sampleRx (formatOf l s) (level == .mark) (rxOf l s) = (r, none))
    (hb : (rxOf l s).state ≠ .idle) (hr : r.state = .idle) :
    ∃ t, exec (.lineSample l level) s = .next t ∧ besidesStatus t = besidesStatus (formatTaken l (withRx l r s)) := by
  rw [← rxPassed_idle hb hr]
  exact lineSample_runs hc hj h

/-- The sample that completes a frame: the line after it, and the frame's result. -/
theorem lineSample_completes {fr : FrameResult}
    (h : sampleRx (formatOf l s) (level == .mark) (rxOf l s) = (r, some fr)) :
    ∃ t, exec (.lineSample l level) s = .next t ∧ linesOf t = linesOf (rxPassed l (rxOf l s).state r s) ∧
      besidesStatus t =
        besidesStatus (withLines (linesOf (rxPassed l (rxOf l s).state r s)) (joinClaims (lineResult l fr s))) := by
  have hx := lineSampled_frame h
  rw [rxPassed_lines, lineResult_withLines] at hx
  exact linesEvent_runs (can := !s.coldAsserted) (f := lineSampled l (level == .mark)) (by simp [hc]) hx

/-- A whole frame, its receiver in STOP before it: the line after it, and the frame's result. -/
theorem lineFrame_runs {fr : FrameResult} (hstop : (rxOf l s).state = .stop)
    (hfit : l = .scn →
      ((formatOf l s).eight = true ∨ fr.code.toNat < 0x80) ∧
        (fr.parityError = true → (formatOf l s).parity ≠ .none)) :
    ∃ t, exec (lineFrame l fr) s = .next t ∧ linesOf t = linesOf (rxPassed l .stop (rxAfterFrame fr (rxOf l s)) s) ∧
      besidesStatus t =
        besidesStatus
          (withLines (linesOf (rxPassed l .stop (rxAfterFrame fr (rxOf l s)) s)) (joinClaims (lineResult l fr s))) := by
  cases l with
  | kbd =>
    rw [rxPassed_kbd]
    exact keyboardFrame_runs fr hc
  | scn =>
    have hstop' : s.scanner.state = .stop := hstop
    have hbefore : beforeScannerFrame s = s := beforeScannerFrame_other (by rw [hstop']; decide)
    obtain ⟨hcode, hparity⟩ := hfit rfl
    obtain ⟨t, ht, hn, hb⟩ := scannerFrame_runs (fr := fr) hc (by rw [hbefore]; exact frameFits_of hcode hparity)
    have hlines : linesOf (rxPassed .scn .stop (rxAfterFrame fr s.scanner) s) = linesAfterFrame fr s := by
      have h := congrArg linesOf (rxPassed_afterFrame fr s)
      rwa [hbefore] at h
    refine ⟨t, ht, hn.trans hlines.symm, hb.trans ?_⟩
    exact congrArg (fun n => besidesStatus (withLines n _)) hlines.symm

end

end Sys2Proof.Machine
end

section
/-! A sample beside the whole frame it completes, the three samples of a data bit, and the statement on samples. -/

namespace Sys2Proof.Machine

theorem withRx_self (l : Line) (s : State) : withRx l (rxOf l s) s = s := by cases l <;> rfl

theorem besidesStatus_withRx (l : Line) (r : Receiver) (s : State) :
    besidesStatus (withRx l r s) = withRx l r (besidesStatus s) := by cases l <;> rfl

theorem withRx_withLines (l : Line) (r : Receiver) (x s : State) :
    withRx l r (withLines (linesOf x) s) = withLines (linesOf (withRx l r x)) s := by cases l <;> rfl

theorem rxOf_lines {l : Line} {s t : State} (h : linesOf s = linesOf t) : rxOf l s = rxOf l t := by
  cases l with
  | kbd => exact congrArg Lines.keyboard h
  | scn => exact congrArg Lines.scanner h

theorem rxOf_rxPassed (l : Line) (before : RxState) (r : Receiver) (s : State) : rxOf l (rxPassed l before r s) = r := by
  unfold rxPassed
  split <;> cases l <;> rfl

/-- Two receivers in one state leave the line's formats alike. -/
theorem withRx_rxPassed {l : Line} {before : RxState} {r r' : Receiver} (h : r.state = r'.state) (s : State) :
    withRx l r (rxPassed l before r' s) = rxPassed l before r s := by
  unfold rxPassed
  rw [h]
  split <;> cases l <;> rfl

/-! ### The stop bit's last sample (R77) -/

/-- Beside the receiver, the sample that completes a frame does what the whole frame does (log 9). -/
theorem lineSample_as_frame {l : Line} {level : Level} {s : State} {r : Receiver} {fr : FrameResult}
    (hc : s.coldAsserted = false) (hstop : (rxOf l s).state = .stop)
    (h : sampleRx (formatOf l s) (level == .mark) (rxOf l s) = (r, some fr))
    (hr : r.state = if fr.framingError then .recover else .idle)
    (hfit : l = .scn →
      ((formatOf l s).eight = true ∨ fr.code.toNat < 0x80) ∧
        (fr.parityError = true → (formatOf l s).parity ≠ .none)) :
    ∃ t t', exec (.lineSample l level) s = .next t ∧ exec (lineFrame l fr) s = .next t' ∧ rxOf l t = r ∧
      besidesStatus t = besidesStatus (withRx l (rxOf l t) t') := by
  obtain ⟨t, ht, hn, hb⟩ := lineSample_completes hc h
  obtain ⟨t', ht', -, hb'⟩ := lineFrame_runs hc hstop hfit
  have hrx : rxOf l t = r := (rxOf_lines hn).trans (rxOf_rxPassed _ _ _ _)
  have hpassed := withRx_rxPassed (l := l) (before := .stop) (hr.trans (rxAfterFrame_state fr (rxOf l s)).symm) s
  refine ⟨t, t', ht, ht', hrx, ?_⟩
  rw [hrx, besidesStatus_withRx, hb', ← besidesStatus_withRx, withRx_withLines, hpassed, hb, hstop]

/-! ### The three samples of a data bit of the keyboard (R74, R75) -/

/-- A keyboard sample that completes no frame changes the receiver alone. -/
theorem keyboardSample_runs {level : Level} {s : State} {r : Receiver} (hj : claimsJoined s)
    (hc : s.coldAsserted = false) (h : sampleRx keyboardFormat (level == .mark) s.keyboard = (r, none)) :
    ∃ t, exec (.lineSample .kbd level) s = .next t ∧ claimsJoined t ∧ t.coldAsserted = false ∧ t.keyboard = r ∧
      ∀ k, besidesStatus (withRx .kbd k t) = besidesStatus (withRx .kbd k s) := by
  obtain ⟨t, ht, hb⟩ := lineSample_runs (l := .kbd) hc hj h
  rw [rxPassed_kbd] at hb
  refine ⟨t, ht, ?_, (congrArg State.coldAsserted hb).trans hc, congrArg State.keyboard hb,
    fun k => congrArg (withRx .kbd k) hb⟩
  exact claimsJoined_of_queue hj (by have e := congrArg State.claimOrder hb; exact e)
    (by have e := congrArg State.queue hb; exact e)

theorem twoOfThree (x y z : Level) :
    2 ≤ (x == .mark).toNat + (y == .mark).toNat + (z == .mark).toNat ↔
      (x = .mark ∧ y = .mark) ∨ (x = .mark ∧ z = .mark) ∨ (y = .mark ∧ z = .mark) := by
  cases x <;> cases y <;> cases z <;> decide

/-- A data bit of the keyboard, from the sample before its first judged one. -/
theorem dataBit_runs {s : State} {b : Nat} (x y z : Level) (hj : claimsJoined s) (hc : s.coldAsserted = false)
    (hd : s.keyboard.state = .data) (hb : b < 8) (hs : s.keyboard.sample = 16 * b + 6) :
    ∃ t1 t2 t3, exec (.lineSample .kbd x) s = .next t1 ∧ exec (.lineSample .kbd y) t1 = .next t2 ∧
      exec (.lineSample .kbd z) t2 = .next t3 ∧ besidesStatus t3 = besidesStatus { s with keyboard := t3.keyboard } ∧
      t3.keyboard =
        { s.keyboard with
          sample := 16 * b + 9
          votes := (x == .mark).toNat + (y == .mark).toNat + (z == .mark).toNat
          shift :=
            shiftIn s.keyboard.shift b
              (decide (2 ≤ (x == .mark).toNat + (y == .mark).toNat + (z == .mark).toNat)) } := by
  obtain ⟨t1, h1, hj1, hc1, hk1, hf1⟩ := keyboardSample_runs (level := x) hj hc
    (sampleRx_first (.inr (.inl hd)) (by omega))
  obtain ⟨t2, h2, hj2, hc2, hk2, hf2⟩ := keyboardSample_runs (level := y) hj1 hc1
    (sampleRx_second (.inr (.inl (by rw [hk1]; exact hd))) (by rw [hk1]; dsimp only; omega))
  rw [hk1] at hk2
  have hbit : (t2.keyboard.sample + 1) / 16 = b := by rw [hk2]; dsimp only; omega
  obtain ⟨t3, h3, -, -, hk3, hf3⟩ := keyboardSample_runs (level := z) hj2 hc2
    ((sampleRx_third (.inr (.inl (by rw [hk2]; exact hd))) (by rw [hk2]; dsimp only; omega)).trans
      (judgeBit_data_more (by rw [hk2]; exact hd) (by rw [hbit]; exact hb)))
  refine ⟨t1, t2, t3, h1, h2, h3, ?_, ?_⟩
  · have hself := congrArg besidesStatus (withRx_self .kbd t3)
    exact hself.symm.trans ((hf3 _).trans ((hf2 _).trans (hf1 _)))
  · rw [hk3, hbit, hk2]
    simp [thirdVote, hs]

/-! ### The statement -/

theorem inFrame_not_idle {r : Receiver} (h : inFrame r) : r.state ≠ .idle := by
  rcases h with h | h | h | h <;> rw [h] <;> decide

/-- The third stop sample of a good frame of an assigned code, with room in the queue (R77, R80, R83). -/
theorem stopSample_queues_key {s : State} (hj : claimsJoined s) (hc : s.coldAsserted = false)
    (hst : s.keyboard.state = .stop) (hs : s.keyboard.sample % 16 = 8) (hv : s.keyboard.votes = 2)
    (hpe : s.keyboard.parityError = false) (ha : isAssigned s.keyboard.shift = true) (hh : s.holding = none) (hq : s.queue.length < 32) :
    ∃ t, exec (.lineSample .kbd .mark) s = .next t ∧ t.keyboard.state = .idle ∧ t.keyboard.seenIdle = true ∧
      besidesStatus t =
        besidesStatus
          { s with keyboard := t.keyboard, queue := s.queue ++ [.key s.keyboard.shift], claimOrder := [] } := by
  have hsample : sampleRx keyboardFormat (Level.mark == .mark) s.keyboard =
      (idleRx (thirdVote true s.keyboard), some ⟨s.keyboard.shift, false, false⟩) := by
    rw [sampleRx_third (.inr (.inr (.inr hst))) (by omega), judgeBit_stop (fe := false) (by exact hst) (by rw [hv]; rfl)]
    simp [thirdVote, hpe]
  obtain ⟨t, ht, hn, hb⟩ := lineSample_completes (l := .kbd) hc hsample
  rw [rxPassed_kbd] at hn hb
  have hk : t.keyboard = idleRx (thirdVote true s.keyboard) := rxOf_lines (l := .kbd) hn
  have hr : lineResult .kbd ⟨s.keyboard.shift, false, false⟩ s = codeHeld s.keyboard.shift s :=
    keyboardResult_held (fr := ⟨s.keyboard.shift, false, false⟩) rfl ha hh
  rw [hr, joinClaims_codeHeld_room hj hh hq, ← hk] at hb
  exact ⟨t, ht, by rw [hk]; rfl, by rw [hk]; rfl, hb⟩

/-- Settles O28: each state's sample, the bit judged in each state, the frame completed, and the keyboard's two cases. -/
theorem lineSamplesMakeFrames : Obligations.LineSamplesMakeFrames := by
  refine ⟨?_, fun s hj hc hst hs hv hpe ha hh hq => stopSample_queues_key hj hc hst hs hv hpe ha hh hq, ?_⟩
  · intro l level s hj hc r fm last mark result idle inFr m votes
    have hmark : (level == .mark) = true ↔ mark := beq_iff_eq
    have hvote : (level == .mark).toNat = if mark then 1 else 0 := toNat_eq_ite _ _ hmark
    have judged (hf : inFr) (h9 : m % 16 = 9) :
        sampleRx fm (level == .mark) r =
          judgeBit fm (m / 16) (decide (2 ≤ votes)) { r with sample := m, votes := votes } := by
      have h := sampleRx_third (f := fm) (mark := level == .mark) (r := r) hf h9
      rw [thirdVote, hvote] at h
      exact h
    have stays {r' : Receiver} (hf : inFr) (h : sampleRx fm (level == .mark) r = (r', none)) (hs : r'.state = r.state) :
        result (withRx l r' s) := lineSample_stays hc hj h (.inr (hs ▸ inFrame_not_idle hf))
    have hspace (h : ¬mark) : (level == .mark) = false := Bool.eq_false_iff.2 (mt hmark.1 h)
    refine ⟨fun hi => ?idle, fun hrec => ?recover, fun hf h7 h8 h9 => stays hf (sampleRx_between hf h7 h8 h9) rfl,
      fun hf h7 => ?first, fun hf h8 => ?second,
      fun h9 => ⟨fun hst => ?startCheck, fun hst => ?data, fun hst hp => ?parity, fun hst => ?stop⟩⟩
    case idle =>
      refine ⟨fun hm => ?_, fun hm hn => ?_, fun hm hn => ?_⟩
      · exact lineSample_stays hc hj (sampleRx_idle_mark (hmark.2 hm) hi) (.inl hi)
      · have h := lineSample_stays hc hj (sampleRx_idle_unseen (hspace hm) hi hn) (.inl hi)
        rwa [withRx_self] at h
      · exact lineSample_stays hc hj (sampleRx_idle_edge (hspace hm) hi hn) (.inl hi)
    case recover =>
      have hne : r.state ≠ .idle := by rw [hrec]; decide
      refine ⟨fun hm hn => ?_, fun hm hn => ?_, fun hm => ?_⟩
      · exact lineSample_stays hc hj (sampleRx_recover_more (hmark.2 hm) hrec hn) (.inr hne)
      · exact lineSample_enters hc hj (sampleRx_recover_last (hmark.2 hm) hrec hn) hne rfl
      · exact lineSample_stays hc hj (sampleRx_recover_space (hspace hm) hrec) (.inr hne)
    case first =>
      have h := sampleRx_first (f := fm) (mark := level == .mark) hf h7
      rw [hvote] at h
      exact stays hf h rfl
    case second =>
      have h := sampleRx_second (f := fm) (mark := level == .mark) hf h8
      rw [hvote] at h
      exact stays hf h rfl
    case startCheck =>
      have h := (judged (.inl hst) h9).trans (judgeBit_startCheck (by exact hst))
      refine ⟨fun hv => ?_, fun hv => ?_⟩
      · rw [decide_eq_true hv] at h
        exact lineSample_enters hc hj h (inFrame_not_idle (.inl hst)) rfl
      · rw [decide_eq_false (by omega)] at h
        exact lineSample_stays hc hj h (.inr (by show RxState.data ≠ _; decide))
    case data =>
      have hf : inFr := .inr (.inl hst)
      have hshift : shiftIn r.shift (m / 16) (decide (2 ≤ votes)) =
          if 2 ≤ votes then r.shift ||| (1#8 <<< (m / 16 - 1)) else r.shift := by
        simp only [shiftIn, decide_eq_true_iff]
      refine ⟨fun hb => ?_, fun hb hp => ?_, fun hb hp => ?_⟩
      · have h := (judged hf h9).trans (judgeBit_data_more (by exact hst) hb)
        rw [hshift] at h
        exact stays hf h rfl
      · have h := (judged hf h9).trans (judgeBit_data_last (by exact hst) hb)
        rw [hshift, if_neg hp] at h
        exact lineSample_stays hc hj h (.inr (by show RxState.parity ≠ _; decide))
      · have h := (judged hf h9).trans (judgeBit_data_last (by exact hst) hb)
        rw [hshift, if_pos hp] at h
        exact lineSample_stays hc hj h (.inr (by show RxState.stop ≠ _; decide))
    case parity =>
      have h := (judged (.inr (.inr (.inl hst))) h9).trans (judgeBit_parity (by exact hst))
      rw [parityFails_eq hp, toNat_eq_ite _ _ decide_eq_true_iff] at h
      exact lineSample_stays hc hj h (.inr (by show RxState.stop ≠ _; decide))
    case stop =>
      intro fe frame hfit
      have hfe : decide (2 ≤ votes) = !fe := by
        rw [← decide_not]
        exact decide_eq_decide.2 (by omega)
      have h := (judged (.inr (.inr (.inr hst))) h9).trans (judgeBit_stop (by exact hst) hfe)
      obtain ⟨t, t', ht, ht', hr, hb⟩ := lineSample_as_frame (fr := ⟨r.shift, r.parityError, fe⟩) hc hst h
        (by cases fe <;> rfl) hfit
      exact ⟨t, t', ht, ht', hr, hb⟩
  · intro s b x y z hj hc hd _ hb hs
    obtain ⟨t1, t2, t3, h1, h2, h3, hrest, hk⟩ := dataBit_runs x y z hj hc hd hb hs
    refine ⟨t1, t2, t3, h1, h2, h3, hrest, ?_⟩
    rw [hk]
    refine ⟨hd, rfl, ?_⟩
    simp only [shiftIn, decide_eq_true_iff, twoOfThree]

end Sys2Proof.Machine
end

section
/-! The queue, the claims, the slots and the current work: what every operation can do to them, said once as a few moves
(R92, R93, R95 to R101, R103, R107 to R113, R124). -/

namespace Sys2Proof.Machine

/-- The queue, the claim order, the holding stage, the slots, the scan in progress, and which work the composer is at.
Everything else has its reset value. -/
def queuePart (s : State) : State :=
  { State.reset with
    queue := s.queue, claimOrder := s.claimOrder, holding := s.holding, slots := s.slots
    collecting := s.collecting
    composer := { Composer.cold with engine := s.composer.engine, work := s.composer.work } }

/-- The work has ended: the slot of its SCAN token is FREE, and the composer IDLE (R103, R124). -/
def workDropped (s : State) : State :=
  match s.composer.work with
  | .token t => idleComposer (freeTokenSlot t s)
  | .none => idleComposer s
  | .directive _ _ => idleComposer s
  | .apply => idleComposer s

/-- The token at the head of the queue taken for application, the rest left (R112). -/
def tokenAtWork (t : Token) (rest : List Token) (e : Engine) (s : State) : State :=
  takeSlot t { s with queue := rest, composer.engine := e, composer.work := .token t }

/-- A scan starts in slot i (R95). -/
def scanStarted (i : Fin 4) (s : State) : State :=
  { s with collecting := .collecting i, slots := setSlot s.slots i claimedSlot }

/-- One change a command can make to this part. -/
inductive QueueMove : State → State → Prop
  /-- Nothing of the part changes. -/
  | calm {s t : State} (h : queuePart t = queuePart s) : QueueMove s t
  /-- The current work ends (R103, R124). -/
  | ended (s : State) : QueueMove s (workDropped s)
  /-- The IDLE composer takes work that is no token (R174, R194). -/
  | begun {s : State} {e : Engine} {w : Work} (h : s.composer.engine = .idle) (he : e ≠ .idle)
      (hw : ∀ t, w ≠ .token t) : QueueMove s { s with composer.engine := e, composer.work := w }
  /-- The composer is PAUSED (R180). -/
  | paused (s : State) : QueueMove s { s with composer.engine := .paused }
  /-- The IDLE composer takes the head of the queue (R112). -/
  | taken {s : State} {t : Token} {rest : List Token} {e : Engine} (hq : s.queue = t :: rest)
      (hi : s.composer.engine = .idle) (he : e ≠ .idle) : QueueMove s (tokenAtWork t rest e s)
  /-- The head of the queue is discarded, the slot of a SCAN token FREE (R103, R112, R113). -/
  | discarded {s : State} {t : Token} {rest : List Token} (hq : s.queue = t :: rest) :
      QueueMove s (freeTokenSlot t { s with queue := rest })
  /-- The first waiting claim joins the queue (R109). -/
  | joined {s : State} {c : Claim} {cs : List Claim} (hc : s.claimOrder = c :: cs)
      (hq : s.queue.length < Config.queueSize) : QueueMove s (joinClaim c { s with claimOrder := cs })
  /-- A code enters the empty holding stage and claims its place (R82, R108). -/
  | held {s : State} (code : Byte) (h : s.holding = none) : QueueMove s (codeHeld code s)
  /-- A scan starts in a FREE slot (R95). -/
  | started {s : State} {i : Fin 4} (hc : s.collecting = .none) (hf : (getSlot s.slots i).state = .free) :
      QueueMove s (scanStarted i s)
  /-- A frame is stored in a slot (R96). -/
  | stored (i : Fin 4) (fr : FrameResult) (s : State) : QueueMove s (appendFrame i fr s)
  /-- A scan is lost, or a lost scan ends (R95, R97). -/
  | lost {s : State} {p : ScanProgress} (h : ∀ i, s.collecting ≠ .collecting i) (hp : ∀ i, p ≠ .collecting i) :
      QueueMove s { s with collecting := p }
  /-- The scan in progress ends and is dropped (R100). -/
  | dropped {s : State} {i : Fin 4} (h : s.collecting = .collecting i) : QueueMove s (dropScan i (scanStamped i s))
  /-- The scan in progress ends, is accepted and claims its place (R101, R108). -/
  | accepted {s : State} {i : Fin 4} (w : Word) (h : s.collecting = .collecting i) :
      QueueMove s (acceptScan i w (scanStamped i s))
  /-- The waiting claims become those of an earlier tick (R108). -/
  | aged (s : State) : QueueMove s (nextTick s)
  /-- Cold reset (R200). -/
  | cold (s : State) : QueueMove s (coldState s)

/-- Some moves, one after another. -/
abbrev QueueMoves : State → State → Prop := Relation.ReflTransGen QueueMove

theorem QueueMoves.calm {s t : State} (h : queuePart t = queuePart s) : QueueMoves s t := .single (.calm h)

theorem QueueMoves.calm_before {s t r : State} (h' : QueueMoves t r) (h : queuePart t = queuePart s) : QueueMoves s r :=
  .head (.calm h) h'

theorem QueueMoves.calm_after {s t r : State} (h : QueueMoves s t) (h' : queuePart r = queuePart t) : QueueMoves s r :=
  h.tail (.calm h')

/-! ### What leaves the part as it was -/

@[simp] theorem queuePart_raiseError (c : ErrorCode) (s : State) : queuePart (raiseError c s) = queuePart s := by
  unfold raiseError; split <;> rfl
@[simp] theorem queuePart_sendLock (s : State) : queuePart (sendLock s) = queuePart s := by
  unfold sendLock; split <;> rfl
@[simp] theorem queuePart_unlockKeyboard (s : State) : queuePart (unlockKeyboard s) = queuePart s := by
  unfold unlockKeyboard; split <;> rfl
@[simp] theorem queuePart_lockKeyboard (s : State) : queuePart (lockKeyboard s) = queuePart s := by
  unfold lockKeyboard; split <;> rfl
@[simp] theorem queuePart_completeDirective (c : Completion) (s : State) :
    queuePart (completeDirective c s) = queuePart s := by
  unfold completeDirective; repeat' split
  all_goals rfl
@[simp] theorem queuePart_takeIn (t : Transfer) (s : State) : queuePart (takeIn t s) = queuePart s := by
  obtain ⟨i, a, r, b, e, -⟩ := takeIn_form t s
  rw [e]; rfl
@[simp] theorem queuePart_decideAnew (s : State) : queuePart (decideAnew s) = queuePart s := by
  obtain ⟨i, a, r, b, e, -⟩ := decideAnew_form s
  rw [e]; rfl
@[simp] theorem queuePart_decideHeld (s : State) : queuePart (decideHeld s) = queuePart s := by
  obtain ⟨i, a, r, b, e⟩ := decideHeld_form s
  rw [e]; rfl
@[simp] theorem queuePart_takePosting (r : HeldRange) (s : State) : queuePart (takePosting r s) = queuePart s :=
  (queuePart_decideAnew _).trans rfl
@[simp] theorem queuePart_releaseRange (s : State) : queuePart (releaseRange s) = queuePart s := by
  unfold releaseRange; repeat' split
  · rfl
  · rfl
  · exact (queuePart_takePosting _ _).trans rfl
@[simp] theorem queuePart_takeOwedEmpty (s : State) : queuePart (takeOwedEmpty s) = queuePart s := by
  unfold takeOwedEmpty; split <;> simp
@[simp] theorem queuePart_openList (s : State) : queuePart (openList s) = queuePart s := by
  have h (y : State) : queuePart (holdForGather y) = queuePart y := by
    unfold holdForGather; repeat' split
    all_goals rfl
  exact (h _).trans rfl
@[simp] theorem queuePart_markModified (s : State) : queuePart (markModified s) = queuePart s := by
  unfold markModified; repeat' split
  all_goals rfl
@[simp] theorem queuePart_scanComputed (s : State) : queuePart (scanComputed s) = queuePart s := by
  unfold scanComputed; dsimp only; split <;> rfl
@[simp] theorem queuePart_gatherJudged (s : State) : queuePart (gatherJudged s) = queuePart s := by
  unfold gatherJudged; dsimp only; split <;> rfl
@[simp] theorem queuePart_beginOp (u : SetupBlock) (op : Op) (s : State) : queuePart (beginOp u op s) = queuePart s := by
  cases op <;> rfl

/-! ### The end of a work -/

theorem queuePart_idleComposer {s t : State} (h : queuePart t = queuePart s) :
    queuePart (idleComposer t) = queuePart (idleComposer s) :=
  (congrArg (fun y => queuePart (idleComposer y)) h :
    queuePart (idleComposer (queuePart t)) = queuePart (idleComposer (queuePart s)))

theorem queue_endWork (s : State) : QueueMoves s (endWork s) := by
  refine QueueMoves.calm_after (.single (.ended s)) ?_
  unfold endWork workDropped
  cases s.composer.work <;> exact queuePart_idleComposer (queuePart_releaseRange _)

/-- The work ends after a change of nothing in the part. -/
theorem queue_endWork_of {s t : State} (h : queuePart t = queuePart s) : QueueMoves s (endWork t) :=
  (queue_endWork t).calm_before h

theorem queue_refuse (c : ErrorCode) (s : State) : QueueMoves s (refuse c s) := queue_endWork_of (queuePart_raiseError c s)

/-- A refusal with the cursor moved. -/
theorem queue_refuseAt (x : Nat) (c : ErrorCode) (s : State) : QueueMoves s (endWork (setCursor x (raiseError c s))) :=
  queue_endWork_of (queuePart_raiseError c s)

theorem queue_finishDirective (c : Completion) (s : State) : QueueMoves s (finishDirective c s) :=
  queue_endWork_of (queuePart_completeDirective c s)

theorem queue_moved (x : Nat) (s : State) : QueueMoves s (endWork (setCursor x s)) := queue_endWork_of rfl

/-! ### Sends, walks and the return list -/

theorem queue_finishSend (s : State) : QueueMoves s (finishSend s) := by
  unfold finishSend; split <;> exact queue_endWork_of rfl

theorem queue_lockAndList (s : State) : QueueMoves s (lockAndList s) := by
  have h : queuePart (insertOff (sendLock s)) = queuePart s := queuePart_sendLock s
  unfold lockAndList; dsimp only; split
  · exact .calm ((queuePart_openList _).trans h)
  · exact (queue_finishSend _).calm_before h

theorem queue_listDone (l : ListState) (s : State) : QueueMoves s (listDone l s) := by
  have h : queuePart { s with composer.listPhase := .closed } = queuePart s := rfl
  unfold listDone; dsimp only; split
  · exact ((queue_finishDirective _ _).calm_before h).calm_after (queuePart_decideHeld _)
  · exact ((queue_finishSend _).calm_before h).calm_after (queuePart_decideHeld _)
  · exact .calm ((queuePart_decideHeld _).trans h)
  · exact .calm ((queuePart_decideHeld _).trans h)

theorem queue_walkLimit (w : Walk) (s : State) : QueueMoves s (walkLimit w s) := by
  cases w with
  | validate => exact queue_refuse _ s
  | gather => exact .calm rfl

theorem queue_walkEnd (w : Walk) (s : State) : QueueMoves s (walkEnd w s) := by
  cases w with
  | validate => exact queue_lockAndList s
  | gather => exact .calm rfl

theorem queue_selectStep (w : Walk) (s : State) : QueueMoves s (selectStep w s) := by
  unfold selectStep; split
  · exact queue_walkLimit w s
  · exact queue_walkEnd w s
  · exact .calm rfl

theorem queue_startWalk (w : Walk) (s : State) : QueueMoves s (startWalk w s) := (queue_selectStep w _).calm_before rfl

theorem queue_nextStep (w : Walk) (s : State) : QueueMoves s (nextStep w s) := by
  unfold nextStep; split
  · exact queue_walkEnd w s
  · exact (queue_selectStep w _).calm_before rfl

theorem queue_validateField (s : State) : QueueMoves s (validateField s) := by
  unfold validateField; dsimp only; repeat' split
  · exact queue_nextStep _ s
  · exact queue_refuseAt _ _ s
  · exact .calm rfl
  · exact queue_nextStep _ s

theorem queue_validationJudged (s : State) : QueueMoves s (validationJudged s) := by
  unfold validationJudged; dsimp only; repeat' split
  · exact queue_refuseAt _ _ s
  · exact queue_refuseAt _ _ s
  · exact queue_nextStep _ s

theorem queue_madeStep (w : Walk) (f : Field) (s : State) : QueueMoves s (madeStep w f s) := by
  have hg (y : State) : QueueMoves y (gatherField y) := by
    unfold gatherField; split
    · exact .calm rfl
    · exact queue_nextStep _ y
  cases w with
  | validate => exact (queue_validateField _).calm_before rfl
  | gather => exact (hg _).calm_before rfl

theorem queue_stepTaken (w : Walk) (m : Option Nat) (l : Nat) (s : State) : QueueMoves s (stepTaken w m l s) := by
  unfold stepTaken; repeat' split
  · exact queue_walkLimit w s
  · exact .calm rfl
  · exact queue_madeStep w _ s
  · exact .calm rfl

theorem queue_stepUnderWhole (w : Walk) (s : State) : QueueMoves s (stepUnderWhole w s) := by
  unfold stepUnderWhole; split
  · exact queue_walkLimit w s
  · exact queue_walkEnd w s
  · exact .calm rfl

theorem queue_listOpened (s : State) : QueueMoves s (listOpened s) := by
  unfold listOpened; repeat' split
  · exact .calm rfl
  · exact .calm rfl
  · exact (queue_startWalk _ _).calm_before rfl

/-! ### The passes -/

theorem queue_erasePass (s : State) : QueueMoves s (erasePass s) := by
  have hr : QueueMoves s (erasePass.eraseRefused s) := by
    unfold erasePass.eraseRefused; split
    · exact queue_finishDirective _ s
    · exact queue_refuse _ s
    · exact .refl
    · exact .refl
  unfold erasePass; split
  · exact .calm rfl
  all_goals exact hr

theorem queue_eraseEnded (s : State) : QueueMoves s (eraseEnded s) := by
  unfold eraseEnded; dsimp only; repeat' split
  · exact (queue_finishDirective _ _).calm_before rfl
  · exact (queue_lockAndList _).calm_before ((queuePart_releaseRange _).trans rfl)
  · exact queue_endWork_of rfl
  · exact queue_endWork_of rfl
  all_goals exact .calm rfl

theorem queue_passEnded (s : State) : QueueMoves s (passEnded s) := by
  unfold passEnded; split
  · exact (queue_finishDirective _ _).calm_before (queuePart_unlockKeyboard s)
  · exact queue_finishDirective _ s

theorem queue_cellStep (s : State) : QueueMoves s (cellStep s) := by
  unfold cellStep; split
  · exact .calm rfl
  · exact queue_passEnded s

theorem queue_startClearPass (s : State) : QueueMoves s (startClearPass s) := by
  unfold startClearPass; dsimp only; split
  · exact (queue_passEnded _).calm_before rfl
  · exact (queue_cellStep _).calm_before rfl

theorem queue_cellHeld (p : Nat) (s : State) : QueueMoves s (cellHeld p s) := by
  unfold cellHeld; repeat' split
  · exact .calm rfl
  · exact (queue_cellStep _).calm_before rfl
  · exact (queue_cellStep _).calm_before rfl

/-! ### Tokens on the held field -/

theorem queue_takeHold (s : State) : QueueMoves s (takeHold s) := by
  unfold takeHold; split
  · exact queue_refuse _ s
  · exact .calm rfl

theorem queue_exitComputed (k : Option Nat) (m : Bool) (n : ExitNext) (s : State) :
    QueueMoves s (exitComputed k m n s) := by
  unfold exitComputed; dsimp only; split
  · exact queue_refuseAt _ _ s
  · exact .calm rfl

theorem queue_exitSucceeded (n : ExitNext) (s : State) : QueueMoves s (exitSucceeded n s) := by
  cases n with
  | advance | move => exact queue_moved _ s
  | field => exact .calm rfl
  | send => exact (queue_startWalk _ _).calm_before (queuePart_releaseRange s)

theorem queue_insertJudged (c : Byte) (s : State) : QueueMoves s (insertJudged c s) := by
  unfold insertJudged; dsimp only; split
  · exact queue_refuse _ s
  · exact .calm rfl

theorem queue_characterDone (s : State) : QueueMoves s (characterDone s) := by
  unfold characterDone; dsimp only; split
  · exact .calm rfl
  · exact queue_moved _ s

theorem queue_heldCharacter (c : Byte) (s : State) : QueueMoves s (heldCharacter c s) := by
  unfold heldCharacter; dsimp only; repeat' split
  · exact queue_refuse _ s
  · exact queue_refuse _ s
  all_goals exact .calm rfl

theorem queue_heldDelete (s : State) : QueueMoves s (heldDelete s) := by
  unfold heldDelete; dsimp only; split
  · exact queue_refuse _ s
  · exact .calm rfl

theorem queue_heldErase (s : State) : QueueMoves s (heldErase s) := by
  unfold heldErase; dsimp only; split
  · exact queue_refuse _ s
  · exact .calm rfl

theorem queue_heldFieldExit (s : State) : QueueMoves s (heldFieldExit s) := by
  unfold heldFieldExit; dsimp only; split
  · exact queue_refuse _ s
  · exact .calm rfl

theorem queue_heldFieldMinus (s : State) : QueueMoves s (heldFieldMinus s) := by
  unfold heldFieldMinus; dsimp only; repeat' split
  · exact queue_refuse _ s
  · exact queue_refuse _ s
  · exact .calm rfl

theorem queue_heldMove (c : Byte) (s : State) : QueueMoves s (heldMove c s) := by
  unfold heldMove; dsimp only; split
  · exact .calm rfl
  · exact queue_moved _ s

theorem queue_heldSend (s : State) : QueueMoves s (heldSend s) := by
  unfold heldSend; split
  · exact .calm rfl
  · exact (queue_startWalk _ _).calm_before (queuePart_releaseRange s)

theorem queue_heldScan (i : Fin 4) (s : State) : QueueMoves s (heldScan i s) := by
  unfold heldScan rejectScan; dsimp only; repeat' split
  · exact queue_endWork_of rfl
  all_goals exact .calm rfl

theorem queue_heldWork (s : State) : QueueMoves s (heldWork s) := by
  unfold heldWork; repeat' split
  · exact queue_heldScan _ s
  · exact queue_heldCharacter _ s
  · exact queue_heldDelete s
  · exact queue_heldErase s
  · exact queue_heldFieldExit s
  · exact queue_heldFieldMinus s
  · exact queue_heldSend s
  · exact queue_heldMove _ s
  all_goals exact .refl

theorem queue_holdTaken (m : Option Nat) (l : Nat) (w : Bool) (s : State) : QueueMoves s (holdTaken m l w s) := by
  unfold holdTaken; repeat' split
  · exact queue_refuse _ s
  · exact (queue_heldWork _).calm_before rfl
  · exact .calm rfl

theorem queue_holdUnderWhole (s : State) : QueueMoves s (holdUnderWhole s) := by
  unfold holdUnderWhole; split
  · exact queue_refuse _ s
  · exact .calm rfl

/-! ### The composer at its work -/

/-- A continuation leaves the part as it was, or ends the work. -/
theorem queue_runCont (k : Cont) (s : State) : QueueMoves s (runCont k s) := by
  cases k with
  | holdFirst => exact queue_holdTaken _ _ _ s
  | holdWhole => exact queue_holdUnderWhole s
  | holdNarrow => exact queue_heldWork s
  | insertTested => exact queue_insertJudged _ s
  | setModified => exact .calm (queuePart_markModified s)
  | charWritten => exact queue_characterDone s
  | exitRead => exact queue_exitComputed _ _ _ s
  | exitDone => exact queue_exitSucceeded _ s
  | moveTo => exact queue_moved _ s
  | finish => exact queue_endWork s
  | scanRead => exact .calm (queuePart_scanComputed s)
  | eraseTaken => exact queue_erasePass s
  | eraseDone => exact queue_eraseEnded s
  | stepFirst => exact queue_stepTaken _ _ _ s
  | stepWhole => exact queue_stepUnderWhole _ s
  | stepMade => exact queue_madeStep _ _ s
  | validationRead => exact queue_validationJudged s
  | listOpened => exact queue_listOpened s
  | gatherRead => exact .calm (queuePart_gatherJudged s)
  | entryWritten => exact (queue_nextStep _ _).calm_before rfl
  | listClosed => exact queue_listDone _ s
  | cellTaken => exact queue_cellHeld _ s
  | cellDone => exact (queue_cellStep _).calm_before rfl

theorem queue_carryOn (n : Nat) (s : State) : QueueMoves s (carryOn n s) := by
  induction n generalizing s with
  | zero => exact .refl
  | succ n ih =>
    unfold carryOn
    split
    · exact .refl
    · exact QueueMoves.calm_before ((queue_runCont _ _).trans (ih _)) rfl
    · split
      · exact .calm (queuePart_beginOp _ _ s)
      · exact .refl

/-- The composer goes on after a change of nothing in the part. -/
theorem queue_resume {s t : State} (h : queuePart t = queuePart s) : QueueMoves s (resume t) :=
  (queue_carryOn 16 t).calm_before h

end Sys2Proof.Machine
end

section
/-! What every command does to the queue, the claims, the slots and the current work, as moves. -/

namespace Sys2Proof.Machine

/-! ### The end of an event (R109, R183) -/

@[simp] theorem queuePart_beginPass (s : State) : queuePart (beginPass s) = queuePart s :=
  (congrArg queuePart (besidesStatus_beginPass s) : queuePart (besidesStatus (beginPass s)) = queuePart (besidesStatus s))

@[simp] theorem queuePart_noteChange (s0 s1 : State) : queuePart (noteChange s0 s1) = queuePart s1 := by
  unfold noteChange; split <;> rfl

theorem joinClaim_claimOrder (c : Claim) (cs : List Claim) (s : State) :
    joinClaim c { s with claimOrder := cs } = { joinClaim c s with claimOrder := cs } := by
  obtain ⟨who, fresh⟩ := c
  cases who with
  | held => unfold joinClaim; dsimp only; split <;> rfl
  | slot i => rfl

/-- The claims that join do so one after another, each into a free place (R109). -/
theorem queue_joinFrom (cs : List Claim) (s : State) : QueueMoves { s with claimOrder := cs } (joinFrom cs s) := by
  induction cs generalizing s with
  | nil => exact .refl
  | cons c cs ih =>
    unfold joinFrom
    split
    next hq =>
      have hj : QueueMove { s with claimOrder := c :: cs } (joinClaim c { s with claimOrder := cs }) :=
        .joined (s := { s with claimOrder := c :: cs }) rfl hq
      rw [joinClaim_claimOrder] at hj
      exact .head hj (ih (joinClaim c s))
    next => exact .refl

theorem queue_settle (s0 s1 : State) : QueueMoves s1 (settle s0 s1) :=
  QueueMoves.calm_after (queue_joinFrom s1.claimOrder s1) (by simp [settle, joinClaims])

theorem claimsJoined_joinFrom (cs : List Claim) (s : State) : claimsJoined (joinFrom cs s) := by
  induction cs generalizing s with
  | nil => exact .inl rfl
  | cons c cs ih =>
    unfold joinFrom
    split
    · exact ih _
    next hq => exact .inr (Nat.le_of_not_lt hq)

/-- At the end of an event claims wait only while the queue is full (R109). -/
theorem claimsJoined_settle (s0 s1 : State) : claimsJoined (settle s0 s1) := by
  have h : queuePart (settle s0 s1) = queuePart (joinClaims s1) := by simp [settle]
  exact claimsJoined_of_queue (claimsJoined_joinFrom s1.claimOrder s1) (by have e := congrArg State.claimOrder h; exact e)
    (by have e := congrArg State.queue h; exact e)

/-- What a command does to the part: some moves, and claims wait after it only while the queue is full. -/
def QueueRun (s t : State) : Prop := QueueMoves s t ∧ (claimsJoined s → claimsJoined t)

theorem QueueRun.idle (s : State) : QueueRun s s := ⟨.refl, id⟩

/-- An event makes the moves of its effect, and claims join at its end. -/
theorem queue_event {can : Bool} {f : State → State} {s t : State} (hf : can = true → QueueMoves s (f s))
    (h : event can f s = .next t) : QueueRun s t := by
  cases can with
  | false => cases h; exact .idle s
  | true => cases h; exact ⟨(hf rfl).trans (queue_settle _ _), fun _ => claimsJoined_settle _ _⟩

theorem queue_event_calm {can : Bool} {f : State → State} {s t : State} (hf : queuePart (f s) = queuePart s)
    (h : event can f s = .next t) : QueueRun s t := queue_event (fun _ => .calm hf) h

/-! ### The transfer path -/

theorem queuePart_portGrant (s : State) : queuePart (portGrant s) = queuePart s := by
  unfold portGrant grantInternal; repeat' split
  all_goals rfl

/-- The composer leaves PAUSED at the end of a rebuild (R21, R125). -/
theorem queue_rebuildEnded (s : State) : QueueMoves s (rebuildEnded s) := by
  have h : QueueMoves s (pauseLeft s) := by
    have hd : QueueMoves s (workDropped s) := .single (.ended s)
    unfold workDropped at hd
    unfold pauseLeft
    cases hw : s.composer.work with
    | directive => rw [hw] at hd; exact hd.calm_after (queuePart_idleComposer (queuePart_completeDirective _ s))
    | apply => rw [hw] at hd; exact hd
    | none | token => exact .refl
  exact h.calm_after (queuePart_decideHeld _)

theorem queue_rebuildLimit (s : State) : QueueMoves s (rebuildLimit s) := (queue_rebuildEnded _).calm_before rfl

theorem queue_upkeep (p : Nat) (w : Word) (s : State) : QueueMoves s (upkeep p w s) := by
  unfold upkeep; repeat' split
  · exact .refl
  · exact .refl
  next m _ =>
    obtain ⟨h, e⟩ := followWrite_hand p w m s
    exact .calm (by rw [e]; rfl)
  · exact .calm rfl
  · exact .calm rfl
  · exact queue_rebuildLimit s
  · exact .refl

theorem queue_learnTransfer (t : PortTransfer) (s : State) : QueueMoves s (learnTransfer t s) := by
  rcases learnTransfer_cases t s with ⟨e, -⟩ | ⟨u, p, -, -, e⟩ <;> rw [e]
  exact queue_upkeep p _ s

theorem queuePart_handReport (i : Option (Fin 32)) (v : Word) (s : State) :
    queuePart (handReport i v s) = queuePart s := by
  cases i with
  | none => rfl
  | some i =>
    show queuePart (reportWrite i v s) = _
    unfold reportWrite directiveWrite directiveWrite.acceptDirective reportWrite.clearIf
    dsimp only; repeat' split
    all_goals rfl

theorem queuePart_watchApply (a : WordAddr) (l : Lanes) (v : Word) (s : State) :
    queuePart (watchApply a l v s) = queuePart s := by
  unfold watchApply requestApply requestApply.ask; repeat' split
  all_goals rfl

theorem queuePart_giveReady (o : Bool) (a : Answer) (s : State) : queuePart (giveReady o a s) = queuePart s := by
  unfold giveReady leaveHand; repeat' split
  all_goals rfl

/-- A processor transfer completes: only upkeep, at the end of a rebuild, reaches the composer's work (R21, R52). -/
theorem queue_processorDone (i : Option (Fin 32)) (m o : Bool) (t : PortTransfer) (s : State) :
    QueueMoves s (processorDone i m o t s) := by
  have tell (y : State) : QueueMoves y (tellBlocks i t y) := by
    have hl := queue_learnTransfer t y
    unfold tellBlocks
    unfold learnTransfer at hl
    cases hop : t.op with
    | read => exact .refl
    | write l v =>
      rw [hop] at hl
      exact hl.calm_after ((queuePart_watchApply _ _ _ _).trans (queuePart_handReport _ _ _))
  exact QueueMoves.calm_before ((tell _).calm_after (queuePart_takeOwedEmpty _)) (queuePart_giveReady o _ (portDone t s))

theorem queue_transferDone (s : State) : QueueMoves s (transferDone s) := by
  unfold transferDone; split
  · exact .refl
  · split
    · exact .calm rfl
    · split
      · exact queue_processorDone _ _ _ _ s
      · exact queue_processorDone _ _ _ _ s
      all_goals exact .refl

theorem queuePart_mergeReadDone (s : State) : queuePart (mergeReadDone s) = queuePart s := by
  unfold mergeReadDone; repeat' split
  all_goals rfl

theorem queue_postingTaken (s : State) : QueueMoves s (postingTaken s) := by
  unfold postingTaken; split
  · exact .refl
  · dsimp only
    split
    · exact queue_resume (queuePart_takePosting _ s)
    · exact .calm (queuePart_takePosting _ s)

theorem queue_wordWriteRow {i : Option (Fin 32)} {a : WordAddr} {cls : AccessClass} {v : Word} {s t : State}
    (h : wordWriteRow i a cls v s = .next t) : QueueRun s t := by
  unfold wordWriteRow at h
  dsimp only at h
  split at h
  · exact queue_event (fun _ => queue_transferDone s) h
  · refine queue_event (fun _ => ?_) h
    exact (queue_transferDone _).calm_before ((queuePart_portGrant _).trans (queuePart_takeIn _ s))

theorem queue_reportWriteRow {i : Fin 32} {cls : AccessClass} {v : Word} {s t : State}
    (h : reportWriteRow i cls v s = .next t) : QueueRun s t := by
  unfold reportWriteRow at h
  split at h
  · cases h; exact .idle s
  · exact queue_wordWriteRow h

theorem queue_readReport {i : Fin 32} {cls : AccessClass} {l : Lanes} {s t : State}
    (h : readReport i cls l s = .next t) : QueueRun s t := by
  unfold readReport at h
  split at h
  · cases h; exact .idle s
  · exact queue_event_calm (queuePart_takeIn _ s) h

/-! ### The composer's transfers, the setup unit, the scan of the map and the resets -/

theorem queue_composerDone (s : State) : QueueMoves s (composerDone s) := by
  have ho (op : Op) (rest : List Op) (w : Word) (y : State) : queuePart (opDone op rest w y) = queuePart y := by
    cases op with
    | eraseCell p => unfold opDone; dsimp only; split <;> rfl
    | _ => rfl
  have hc (y : State) : queuePart (countIfWhole y) = queuePart y := by
    unfold countIfWhole; split <;> rfl
  unfold composerDone; split
  · exact .refl
  next t _ =>
    have hl : QueueMoves s (learnTransfer t (portDone t s)) := (queue_learnTransfer t _).calm_before rfl
    dsimp only
    split
    · exact .calm rfl
    · split
      · exact hl
      next op rest _ =>
        refine hl.trans ?_
        unfold carryComposer
        split
        · exact queue_resume (t := abortList _) ((hc _).trans (ho op rest _ _))
        · exact queue_resume (ho op rest _ _)

theorem queuePart_startRebuild (s : State) : queuePart (startRebuild s) = queuePart s := by
  unfold startRebuild; split <;> rfl

theorem queuePart_setupReadDone (s : State) : queuePart (setupReadDone s) = queuePart s := by
  have hj (y : State) : queuePart (judgeSetup y) = queuePart y := by
    have hs (u : SetupBlock) : queuePart (switchEvent u y) = queuePart y := by
      obtain ⟨f, p, e⟩ := switchValues_format u y
      refine (queuePart_decideAnew _).trans ((queuePart_startRebuild _).trans ?_)
      rw [e]; rfl
    unfold judgeSetup; dsimp only; split
    · exact hs _
    · rfl
  unfold setupReadDone; split
  · rfl
  · dsimp only; repeat' split
    · rfl
    · rfl
    · exact hj _

theorem queuePart_resultWordDone (s : State) : queuePart (resultWordDone s) = queuePart s := by
  unfold resultWordDone; split
  · rfl
  · dsimp only; split <;> rfl

/-- The result event: the composer leaves the PAUSED of a refused apply (R125, R197). -/
theorem queue_resultDone (s : State) : QueueMoves s (resultDone s) := by
  have hr (y : State) : QueueMoves y (applyRefused y) := by
    have hd : QueueMoves y (workDropped y) := .single (.ended y)
    unfold workDropped at hd
    unfold applyRefused leavePause
    cases hw : y.composer.work with
    | apply => rw [hw] at hd; exact hd.calm_after rfl
    | none | token | directive => exact .calm rfl
  unfold resultDone; split
  · exact .refl
  · dsimp only; repeat' split
    · exact .calm rfl
    · exact .calm rfl
    · exact QueueMoves.calm_before ((hr _).calm_after rfl) rfl

theorem queue_scanReadDone (s : State) : QueueMoves s (scanReadDone s) := by
  have ha (y : State) : QueueMoves y (scanAdvanced y) := by
    unfold scanAdvanced; split
    · exact (queue_rebuildEnded _).calm_before rfl
    · refine .calm ?_
      unfold claimScan; split <;> rfl
  have hw (w : Word) (y : State) : QueueMoves y (scanWord w y) := by
    unfold scanWord; repeat' split
    · exact queue_rebuildLimit y
    · exact (ha _).calm_before rfl
    · exact (ha _).calm_before rfl
  unfold scanReadDone; split
  · exact .refl
  · dsimp only; repeat' split
    · exact .calm rfl
    · exact (hw _ _).calm_before rfl
    · exact .calm rfl

theorem queuePart_statusDone (s : State) : queuePart (statusDone s) = queuePart s := by
  unfold statusDone; split
  · rfl
  · dsimp only; repeat' split
    · rfl
    · rfl
    · rw [claimStatus_eq]; rfl

theorem queuePart_warmReset (s : State) : queuePart (abortNow (warmValues s)) = queuePart s := by
  obtain ⟨ph, todo, c, e, -⟩ := abortNow_form (warmValues s)
  rw [e]; rfl

/-! ### The lines and the timer -/

theorem queuePart_lineError (fr : FrameResult) (s : State) : queuePart (lineError fr s) = queuePart s := by
  unfold lineError; split <;> rfl

theorem queue_keyboardResult (fr : FrameResult) (s : State) : QueueMoves s (keyboardResult fr s) := by
  unfold keyboardResult; repeat' split
  · exact .calm (queuePart_lineError fr s)
  · exact .refl
  · exact .calm rfl
  next h => exact .single (.held fr.code h)

/-- The scan in progress ends: a lost one leaves nothing, a collected one is dropped or accepted (R97 to R101). -/
theorem queue_scanEnd (s : State) : QueueMoves s (endScan s.timer.counter { s with timer.gap := none }) := by
  unfold endScan
  dsimp only
  split
  next h => exact .calm (by rw [← h]; rfl)
  next h => exact QueueMoves.calm_after (.single (.lost (p := .none) (by simp [h]) (by simp))) rfl
  next i h =>
    show QueueMoves s (judgeScan i s.timer.counter (scanStamped i s))
    unfold judgeScan
    split
    · exact .single (.dropped h)
    · exact .single (.accepted _ h)

theorem queue_collectFrame (fr : FrameResult) (s : State) : QueueMoves s (collectFrame fr s) := by
  have he : QueueMoves s (terminateScan s) := queue_scanEnd s
  unfold collectFrame
  split
  next hc =>
    split
    · exact .refl
    · unfold startScan
      split
      next i hf => exact .head (.started hc (lowestFree_some s.slots i hf).1) (.single (.stored i fr (scanStarted i s)))
      next => exact QueueMoves.calm_after (.single (.lost (p := .losing) (by simp [hc]) (by simp))) rfl
  next i hc =>
    split
    · exact he
    · exact .single (.stored i fr s)
  next =>
    split
    · exact he
    · exact .calm rfl

theorem queue_scannerResult (fr : FrameResult) (s : State) : QueueMoves s (scannerResult fr s) :=
  (queue_collectFrame fr _).calm_before (queuePart_lineError fr s)

theorem queuePart_withLines (n : Lines) (s : State) : queuePart (withLines n s) = queuePart s := rfl

theorem queue_scannerCompletes (fr : FrameResult) (s : State) : QueueMoves s (scannerCompletes fr s) := by
  rw [scannerCompletes_eq]
  exact (queue_scannerResult fr s).calm_after (queuePart_withLines _ _)

theorem queue_lineSampled (l : Line) (m : Bool) (s : State) : QueueMoves s (lineSampled l m s) := by
  cases l with
  | kbd =>
    show QueueMoves s (keyboardSample m s)
    unfold keyboardSample; dsimp only; split
    · exact (queue_keyboardResult _ _).calm_before rfl
    · exact .calm rfl
  | scn =>
    have hf (b : RxState) (r : Receiver) : queuePart (formatAtIdle b { s with scanner := r }) = queuePart s := by
      unfold formatAtIdle takeFormat; repeat' split
      all_goals rfl
    show QueueMoves s (scannerSample m s)
    unfold scannerSample; dsimp only; split
    · exact (queue_scannerResult _ _).calm_before (hf _ _)
    · exact .calm (hf _ _)

theorem queue_tick (s : State) : QueueMoves s (tick s) := by
  have hg (y : State) : QueueMoves y (gapIfDue y) := by
    unfold gapIfDue; split
    · exact queue_scanEnd y
    · exact .refl
  have hh (y : State) : queuePart (holdoffIfDue y) = queuePart y := by
    unfold holdoffIfDue; split <;> rfl
  have ht : queuePart (toneIfDue s) = queuePart s := by
    unfold toneIfDue; split <;> rfl
  have he (y : State) : QueueMoves y (scanExpiries y) := by
    unfold scanExpiries; dsimp only; repeat' split
    · exact (hg _).calm_before (hh _)
    · exact QueueMoves.calm_before ((hg _).calm_after (hh _)) rfl
    · exact (hg y).calm_after (hh _)
  exact ((he _).calm_before ht).tail (.aged _)

/-! ### The head of the queue -/

/-- The IDLE composer takes the head, which LIMIT may refuse at once (R112, R132). -/
theorem queue_takeToken {t : Token} {rest : List Token} {s : State} (hq : s.queue = t :: rest)
    (hi : s.composer.engine = .idle) : QueueMoves s (takeToken t rest s) := by
  have hn (y : State) : queuePart (noteSend t y) = queuePart y := by
    unfold noteSend; repeat' split
    all_goals rfl
  have ht : QueueMoves s (tokenAtWork t rest (if isSendToken t then .send else .token) s) :=
    .single (.taken hq hi (by split <;> decide))
  have hm {x : State} (hx : queuePart x = queuePart (tokenAtWork t rest (if isSendToken t then .send else .token) s)) :
      QueueMoves s (noteSend t x) := ht.calm_after ((hn x).trans hx)
  unfold takeToken; dsimp only; split
  · exact (hm (by cases t <;> rfl)).trans (queue_refuse _ _)
  · exact hm (by cases t <;> rfl)

theorem queue_headVerdict {s : State} (hi : s.composer.engine = .idle) : QueueMoves s (headVerdict s) := by
  unfold headVerdict
  split
  · exact .refl
  next t rest hq =>
    have hd : QueueMoves s (discardToken t rest s) := QueueMoves.calm_after (.single (.discarded hq)) rfl
    split
    · exact queue_takeToken hq hi
    · split
      · exact .refl
      · exact hd
    · split
      next ht => exact QueueMoves.calm_after (.single (.discarded hq)) (by rw [ht]; rfl)
      next => exact hd

/-! ### The rows of tokens and directives -/

theorem queue_tokenRow {p : Token → Bool} {f : State → State} {s t : State} (hf : ∀ y, QueueMoves y (f y))
    (h : tokenRow p f s = .next t) : QueueRun s t :=
  queue_event (f := fun s => f { s with composer.begun := true }) (fun _ => (hf _).calm_before rfl) h

theorem queue_directiveRow {d : Directive} {f : State → State} {s t : State} (hf : ∀ y, QueueMoves y (f y))
    (h : directiveRow d f s = .next t) : QueueRun s t := by
  refine queue_event (f := fun s => f (takeDirective d s)) (fun hc => ?_) h
  have hi : s.composer.engine = .idle := by
    simp only [directiveWaits, Bool.and_eq_true, beq_iff_eq] at hc
    exact hc.1.2
  have ht : QueueMoves s (takeDirective d s) :=
    QueueMoves.calm_after
      (.single (.begun (e := .directive) (w := .directive d s.report.intake.operand) hi (by decide) (by simp))) rfl
  exact ht.trans (hf _)

theorem queue_beginMove (c : Byte) (s : State) : QueueMoves s (beginMove c s) := by
  unfold beginMove; dsimp only; split
  · exact (queue_takeHold s).trans (queue_resume rfl)
  · exact queue_moved _ s

theorem queue_backspace (s : State) : QueueMoves s (backspace s) := by
  unfold backspace; repeat' split
  · exact queue_moved _ s
  · exact queue_endWork s
  · exact queue_endWork s

theorem queue_beginHold (s : State) : QueueMoves s (beginHold s) := (queue_takeHold s).trans (queue_resume rfl)

theorem queue_beginErase (s : State) : QueueMoves s (beginErase s) := queue_resume rfl

theorem queue_beginSend (s : State) : QueueMoves s (beginSend s) := by
  unfold beginSend
  refine Relation.ReflTransGen.trans ?_ (queue_resume rfl)
  repeat' split
  · exact queue_takeHold s
  · exact queue_startWalk _ s
  · exact queue_startWalk _ s

theorem queue_runUnlock (s : State) : QueueMoves s (runUnlock s) := by
  have hu : QueueMoves s (runUnlock.unlock s) := by
    unfold runUnlock.unlock; split
    · exact (queue_startClearPass s).trans (queue_resume rfl)
    · exact (queue_finishDirective _ _).calm_before (queuePart_unlockKeyboard s)
  unfold runUnlock; split
  · exact queue_finishDirective _ s
  · exact hu
  · exact hu

theorem queue_placeCursor (s : State) : QueueMoves s (placeCursor s) := by
  unfold placeCursor; split
  · exact queue_finishDirective _ s
  · exact (queue_finishDirective _ _).calm_before rfl

theorem queue_gatherFields (s : State) : QueueMoves s (gatherFields s) := by
  unfold gatherFields; dsimp only; split
  · exact (queue_finishDirective _ _).calm_before rfl
  · exact queue_resume (queuePart_openList _)

theorem queue_resetModified (s : State) : QueueMoves s (resetModified s) := by
  unfold resetModified; split
  · exact queue_finishDirective _ s
  · exact (queue_startClearPass s).trans (queue_resume rfl)

theorem queue_clearInput (s : State) : QueueMoves s (clearInput s) := by
  unfold clearInput; split
  · exact queue_finishDirective _ s
  · exact queue_resume rfl

theorem queue_rebuildMap (s : State) : QueueMoves s (rebuildMap s) :=
  QueueMoves.calm_after (.single (.paused s)) (queuePart_startRebuild _)

/-- FLSH discards the tokens of the queue one after another (R113, R181). -/
theorem queue_flushQueue (s : State) : QueueMoves s (flushQueue s) := by
  have ht (t : Token) (q : List Token) (y : State) :
      freeTokenSlot t { y with queue := q } = { freeTokenSlot t y with queue := q } := by cases t <;> rfl
  have hf (ts : List Token) (y : State) : QueueMoves { y with queue := ts } { freeTokens ts y with queue := [] } := by
    induction ts generalizing y with
    | nil => exact .refl
    | cons t ts ih =>
      have hd : QueueMove { y with queue := t :: ts } (freeTokenSlot t { y with queue := ts }) :=
        .discarded (s := { y with queue := t :: ts }) rfl
      rw [ht] at hd
      exact .head hd (ih (freeTokenSlot t y))
  exact (hf s.queue s).trans (queue_finishDirective _ _)

/-! ### Every command -/

/-- Every command's effect on the part is some moves, and claims wait after it only while the queue is full. -/
theorem queue_exec {c : Instr} {s t : State} (h : exec c s = .next t) : QueueRun s t := by
  cases c with
  | coldReset =>
    cases h
    split
    · exact .idle s
    · exact ⟨.single (.cold s), fun _ => .inl rfl⟩
  | coldResetEnd => exact queue_event_calm rfl h
  | warmReset => exact queue_event_calm (can := true) (f := fun s => abortNow (warmValues s)) (queuePart_warmReset s) h
  | processorTransfer => exact queue_event_calm (queuePart_takeIn _ s) h
  | memoryPortGrant => exact queue_event_calm (queuePart_portGrant s) h
  | processorTransferCompletion => exact queue_event (fun _ => queue_transferDone s) h
  | mergeReadCompletion => exact queue_event_calm (queuePart_mergeReadDone s) h
  | heldRangePosting => exact queue_event (fun _ => queue_postingTaken s) h
  | readStateWord | readCauseWord => exact queue_readReport h
  | directiveIntake | unknownDirective | writeOperand | clearCounter | clearCauses | reportWordWrite =>
    exact queue_reportWriteRow h
  | applyRequest cls v =>
    change (if s.coldAsserted then _ else _) = _ at h
    split at h
    · cases h; exact .idle s
    · exact queue_wordWriteRow h
  | applyTaken =>
    refine queue_event (f := takeApply) (fun hc => ?_) h
    simp only [Bool.and_eq_true, beq_iff_eq] at hc
    exact QueueMoves.calm_after (.single (.begun (e := .paused) (w := .apply) hc.1 (by decide) (by simp))) rfl
  | setupReadCompletion => exact queue_event_calm (queuePart_setupReadDone s) h
  | resultWordWriteCompletion => exact queue_event_calm (queuePart_resultWordDone s) h
  | resultEvent => exact queue_event (fun _ => queue_resultDone s) h
  | scanReadCompletion => exact queue_event (fun _ => queue_scanReadDone s) h
  | keyboardFrame => exact queue_event (f := keyboardCompletes _) (fun _ => (queue_keyboardResult _ _).calm_before rfl) h
  | scannerFrame => exact queue_event (fun _ => queue_scannerCompletes _ s) h
  | gapCompareExpiry => exact queue_event (fun _ => queue_scanEnd s) h
  | holdoffCompareExpiry | toneCompareExpiry => exact queue_event_calm rfl h
  | headVerdict =>
    refine queue_event (fun hc => queue_headVerdict ?_) h
    simp only [headOffered, composerFree, Bool.and_eq_true, beq_iff_eq] at hc
    obtain ⟨⟨⟨-, ⟨hi, -⟩, -⟩, -⟩, -⟩ := hc
    exact hi
  | cur | cul | cuu | cud => exact queue_tokenRow (fun y => queue_moved _ y) h
  | hom | tab | btb | nln => exact queue_tokenRow (queue_beginMove _) h
  | bsp => exact queue_tokenRow queue_backspace h
  | ins =>
    exact queue_tokenRow (f := fun y => endWork { y with composer.insertMode := !y.composer.insertMode })
      (fun _ => queue_endWork_of rfl) h
  | rst => exact queue_tokenRow (f := fun y => endWork (insertOff y)) (fun _ => queue_endWork_of rfl) h
  | dataCharacter | del | eef | fex | fmn | scanToken => exact queue_tokenRow queue_beginHold h
  | ein | clr => exact queue_tokenRow queue_beginErase h
  | ent | f1ToF12 => exact queue_tokenRow queue_beginSend h
  | composerTransferCompletion => exact queue_event (fun _ => queue_composerDone s) h
  | unlk => exact queue_directiveRow queue_runUnlock h
  | lock =>
    exact queue_directiveRow (f := fun y => finishDirective .done (lockKeyboard y))
      (fun y => (queue_finishDirective _ _).calm_before (queuePart_lockKeyboard y)) h
  | plcr => exact queue_directiveRow queue_placeCursor h
  | gmod | gunp => exact queue_directiveRow queue_gatherFields h
  | rmod => exact queue_directiveRow queue_resetModified h
  | clin => exact queue_directiveRow queue_clearInput h
  | rbld => exact queue_directiveRow queue_rebuildMap h
  | flsh => exact queue_directiveRow queue_flushQueue h
  | statusWriteCompletion => exact queue_event_calm (queuePart_statusDone s) h
  | attnPulseEnd => exact queue_event_calm rfl h
  | lineSample => exact queue_event (fun _ => queue_lineSampled _ _ s) h
  | keyingTimerTick => exact queue_event (fun _ => queue_tick s) h

/-- What every move keeps of the queue, the slots and the current work, every step keeps. -/
theorem step_keeps_queue {P : State → Prop} (hP : ∀ s t, QueueMove s t → P s → P t) {s t : State}
    (h : step s = .next t) (hs : P s) (hj : claimsJoined s) : P t ∧ claimsJoined t := by
  have hm : QueueRun s t := by
    unfold step at h
    split at h
    · cases h; exact .idle s
    next rest _ =>
      obtain ⟨hm, hc⟩ := queue_exec h
      exact ⟨hm.calm_before rfl, hc⟩
  obtain ⟨hm, hc⟩ := hm
  refine ⟨?_, hc hj⟩
  clear h hc
  induction hm with
  | refl => exact hs
  | tail _ hm ih => exact hP _ _ hm ih

end Sys2Proof.Machine
end

section
/-! The queue, the claim order, the holding stage, the slots and the current work stay in agreement (R92, R93, R103, R107 to
R109): every move keeps each slot in the one place its state names. -/

namespace Sys2Proof.Machine

/-! ### The slots named by tokens and claims -/

/-- The slot of a SCAN token. -/
def tokenSlot : Token → Option (Fin 4)
  | .key _ => none
  | .scan i => some i

/-- The slot of a scan's claim. -/
def claimSlot (c : Claim) : Option (Fin 4) :=
  match c.who with
  | .held => none
  | .slot i => some i

theorem queuedSlots_eq (s : State) : queuedSlots s = s.queue.filterMap tokenSlot :=
  congrArg s.queue.filterMap (funext fun t => by cases t <;> rfl)

theorem readyOrder_eq (s : State) : s.readyOrder = s.claimOrder.filterMap claimSlot :=
  congrArg s.claimOrder.filterMap (funext fun ⟨who, _⟩ => by cases who <;> rfl)

theorem queuedSlots_of_cons {s t : State} {k : Token} (h : s.queue = k :: t.queue) :
    queuedSlots s = (tokenSlot k).toList ++ queuedSlots t := by
  rw [queuedSlots_eq, queuedSlots_eq, h]
  cases k <;> rfl

theorem queuedSlots_of_append {s t : State} {k : Token} (h : t.queue = s.queue ++ [k]) :
    queuedSlots t = queuedSlots s ++ (tokenSlot k).toList := by
  rw [queuedSlots_eq, queuedSlots_eq, h, List.filterMap_append]
  cases k <;> rfl

theorem readyOrder_of_cons {s t : State} {c : Claim} (h : s.claimOrder = c :: t.claimOrder) :
    s.readyOrder = (claimSlot c).toList ++ t.readyOrder := by
  obtain ⟨who, fresh⟩ := c
  rw [readyOrder_eq, readyOrder_eq, h]
  cases who <;> rfl

theorem readyOrder_of_append {s t : State} {c : Claim} (h : t.claimOrder = s.claimOrder ++ [c]) :
    t.readyOrder = s.readyOrder ++ (claimSlot c).toList := by
  obtain ⟨who, fresh⟩ := c
  rw [readyOrder_eq, readyOrder_eq, h, List.filterMap_append]
  cases who <;> rfl

theorem heldClaims_of_cons {s t : State} {c : Claim} (h : s.claimOrder = c :: t.claimOrder) :
    heldClaims s = heldClaims t + if c.who = .held then 1 else 0 := by
  unfold heldClaims
  rw [h, List.filter_cons]
  by_cases hw : c.who = .held <;> simp [hw]

theorem heldClaims_of_append {s t : State} {c : Claim} (h : t.claimOrder = s.claimOrder ++ [c]) :
    heldClaims t = heldClaims s + if c.who = .held then 1 else 0 := by
  unfold heldClaims
  rw [h, List.filter_append, List.length_append]
  by_cases hw : c.who = .held <;> simp [hw]

/-- A held code's claim in its place leaves the order of the scans' claims as it was (R108). -/
theorem readyOrder_codeHeld (code : Byte) (s : State) : (codeHeld code s).readyOrder = s.readyOrder := by
  have e : (s.claimOrder.takeWhile fun c => !c.fresh) ++ (s.claimOrder.dropWhile fun c => !c.fresh) = s.claimOrder :=
    List.takeWhile_append_dropWhile
  rw [readyOrder_eq, readyOrder_eq]
  show (insertHeldClaim s.claimOrder).filterMap claimSlot = _
  conv_rhs => rw [← e, List.filterMap_append]
  rw [insertHeldClaim, List.filterMap_append]
  rfl

theorem heldClaims_codeHeld (code : Byte) (s : State) : heldClaims (codeHeld code s) = heldClaims s + 1 := by
  have e : (s.claimOrder.takeWhile fun c => !c.fresh) ++ (s.claimOrder.dropWhile fun c => !c.fresh) = s.claimOrder :=
    List.takeWhile_append_dropWhile
  unfold heldClaims
  show ((insertHeldClaim s.claimOrder).filter _).length = _
  conv_rhs => rw [← e, List.filter_append, List.length_append]
  simp [insertHeldClaim, Nat.add_assoc]

theorem readyOrder_nextTick (s : State) : (nextTick s).readyOrder = s.readyOrder := by
  rw [readyOrder_eq, readyOrder_eq]
  exact List.filterMap_map ..

theorem heldClaims_nextTick (s : State) : heldClaims (nextTick s) = heldClaims s := by
  unfold heldClaims nextTick
  dsimp only
  rw [List.filter_map, List.length_map]
  rfl

/-! ### Agreement, with each slot in its place -/

/-- Where a slot in a state other than FREE is found: in the queue, in the claim order, at the composer, or in the scan in
progress. -/
def slotPlace (s : State) : SlotState → Fin 4 → Prop
  | .free, _ => False
  | .collecting, i => s.collecting = .collecting i
  | .ready, i => i ∈ s.readyOrder
  | .queued, i => i ∈ queuedSlots s
  | .taken, i => s.composer.work = .token (.scan i)

/-- The agreement but for the entry rule, which holds at the end of an event only (R109). -/
structure QueueSound (s : State) : Prop where
  queue_le : s.queue.length ≤ Config.queueSize
  place : ∀ st ≠ .free, ∀ i, (getSlot s.slots i).state = st ↔ slotPlace s st i
  queued_once : (queuedSlots s).Nodup
  ready_once : s.readyOrder.Nodup
  chars_le : ∀ i, (getSlot s.slots i).chars.length ≤ Config.slotSize
  held : heldClaims s = if s.holding.isSome then 1 else 0
  idle : s.composer.engine = .idle → s.composer.work = .none

theorem queueAgrees_iff (s : State) : queueAgrees s ↔ QueueSound s ∧ claimsJoined s := by
  constructor
  · rintro ⟨hl, hj, hq, hqn, hr, hrn, ht, hc, hch, hh, hi⟩
    refine ⟨⟨hl, fun st hst i => ?_, hqn, hrn, hch, hh, hi⟩, hj⟩
    cases st with
    | free => exact absurd rfl hst
    | collecting => exact hc i
    | ready => exact hr i
    | queued => exact hq i
    | taken => exact ht i
  · rintro ⟨⟨hl, hp, hqn, hrn, hch, hh, hi⟩, hj⟩
    exact ⟨hl, hj, hp .queued nofun, hqn, hp .ready nofun, hrn, hp .taken nofun, hp .collecting nofun, hch, hh, hi⟩

/-- The agreement reads nothing outside the part. -/
theorem QueueSound.of_part {s t : State} (hs : QueueSound s) (h : queuePart t = queuePart s) : QueueSound t := by
  have place (y : State) (st : SlotState) (i : Fin 4) : slotPlace (queuePart y) st i ↔ slotPlace y st i := by
    cases st <;> exact Iff.rfl
  have hp : QueueSound (queuePart s) :=
    ⟨hs.queue_le, fun st hst i => (hs.place st hst i).trans (place s st i).symm, hs.queued_once, hs.ready_once,
      hs.chars_le, hs.held, hs.idle⟩
  rw [← h] at hp
  exact ⟨hp.queue_le, fun st hst i => (hp.place st hst i).trans (place t st i), hp.queued_once, hp.ready_once, hp.chars_le,
    hp.held, hp.idle⟩

theorem getSlot_set_same (v : Slots) (i : Fin 4) (x : ScanSlot) : getSlot (setSlot v i x) i = x :=
  (getSlot_setSlot v i i x).trans (if_pos rfl)

theorem getSlot_set_other (v : Slots) {i j : Fin 4} (x : ScanSlot) (h : j ≠ i) : getSlot (setSlot v i x) j = getSlot v j :=
  (getSlot_setSlot v i j x).trans (if_neg h)

theorem setSlot_setSlot (v : Slots) (i : Fin 4) (x y : ScanSlot) : setSlot (setSlot v i x) i y = setSlot v i y := by
  fin_cases i <;> rfl

/-! ### The slot of a scan that ends -/

theorem dropScan_slots (i : Fin 4) (s : State) :
    (dropScan i (scanStamped i s)).slots =
      setSlot s.slots i { getSlot s.slots i with state := .free, stamp := none } := by
  show setSlot (setSlot _ _ _) _ { getSlot (setSlot _ _ _) _ with state := _, stamp := _ } = _
  rw [setSlot_setSlot, getSlot_set_same]

theorem acceptScan_slots (i : Fin 4) (w : Word) (s : State) :
    (acceptScan i w (scanStamped i s)).slots =
      setSlot s.slots i { getSlot s.slots i with state := .ready, stamp := some s.timer.counter } := by
  show setSlot (setSlot _ _ _) _ { getSlot (setSlot _ _ _) _ with state := _ } = _
  rw [setSlot_setSlot, getSlot_set_same]

/-! ### A slot passes from place to place -/

section
variable {s t : State} {i : Fin 4} {x : ScanSlot} (hs : QueueSound s)
include hs

/-- A slot is in no place but the one its state names. -/
theorem QueueSound.not_in_place {a st : SlotState} (ha : (getSlot s.slots i).state = a) (h : st ≠ a) :
    ¬slotPlace s st i := by
  intro hp
  have hst : st ≠ .free := by rintro rfl; exact hp
  exact h (((hs.place st hst i).2 hp).symm.trans ha)

/-- A slot has passed from the place that its state a names to that of x, every other slot and place as before. -/
theorem QueueSound.place_passed {a : SlotState} (ht : t.slots = setSlot s.slots i x)
    (ha : (getSlot s.slots i).state = a) (hx : a ≠ x.state) (hout : ¬slotPlace t a i)
    (hin : x.state ≠ .free → slotPlace t x.state i)
    (hrest : ∀ st j, (j = i → st ≠ a ∧ st ≠ x.state) → (slotPlace t st j ↔ slotPlace s st j)) :
    ∀ st ≠ .free, ∀ j, (getSlot t.slots j).state = st ↔ slotPlace t st j := by
  intro st hst j
  rw [ht]
  by_cases hji : j = i
  · subst hji
    rw [getSlot_set_same]
    by_cases hsa : st = a
    · subst hsa
      exact iff_of_false (Ne.symm hx) hout
    by_cases hsx : st = x.state
    · subst hsx
      exact iff_of_true rfl (hin hst)
    exact iff_of_false (Ne.symm hsx) fun hp => hs.not_in_place ha hsa ((hrest st j fun _ => ⟨hsa, hsx⟩).1 hp)
  · rw [getSlot_set_other _ _ hji, hrest st j fun h => absurd h hji, hs.place st hst j]

theorem QueueSound.chars_passed (ht : t.slots = setSlot s.slots i x) (hx : x.chars.length ≤ Config.slotSize) :
    ∀ j, (getSlot t.slots j).chars.length ≤ Config.slotSize := by
  intro j
  rw [ht]
  by_cases hji : j = i
  · rwa [hji, getSlot_set_same]
  · rw [getSlot_set_other _ _ hji]
    exact hs.chars_le j

end

end Sys2Proof.Machine
end

section
/-! Every move keeps the agreement of the queue, the claim order, the holding stage, the slots and the current work. -/

namespace Sys2Proof.Machine

/-! ### The composer's work and the head of the queue -/

section
variable {s : State} (hs : QueueSound s)
include hs

/-- A change of the work that involves no SCAN token. -/
theorem QueueSound.set_work {e : Engine} {w : Work} (ho : ∀ i, s.composer.work ≠ .token (.scan i))
    (hw : ∀ i, w ≠ .token (.scan i)) (he : e = .idle → w = .none) :
    QueueSound { s with composer.engine := e, composer.work := w } where
  queue_le := hs.queue_le
  place st hst i := (hs.place st hst i).trans (by
    cases st with
    | taken => exact iff_of_false (ho i) (hw i)
    | _ => exact Iff.rfl)
  queued_once := hs.queued_once
  ready_once := hs.ready_once
  chars_le := hs.chars_le
  held := hs.held
  idle := he

/-- The slot of a SCAN token whose work ends becomes FREE (R103). -/
theorem QueueSound.free_taken {i : Fin 4} (hw : s.composer.work = .token (.scan i)) :
    QueueSound (idleComposer (freeSlot i s)) := by
  have ha : (getSlot s.slots i).state = .taken := (hs.place .taken nofun i).2 hw
  have hrest : ∀ st j, (j = i → st ≠ .taken ∧ st ≠ .free) →
      (slotPlace (idleComposer (freeSlot i s)) st j ↔ slotPlace s st j) := by
    intro st j h
    cases st with
    | taken => exact iff_of_false nofun fun hp => by cases hw.symm.trans hp; exact (h rfl).1 rfl
    | _ => exact Iff.rfl
  exact ⟨hs.queue_le, hs.place_passed rfl ha nofun nofun (absurd rfl) hrest, hs.queued_once, hs.ready_once,
    hs.chars_passed rfl (hs.chars_le i), hs.held, fun _ => rfl⟩

theorem QueueSound.workDropped : QueueSound (workDropped s) := by
  have hi (h : ∀ i, s.composer.work ≠ .token (.scan i)) : QueueSound (idleComposer s) :=
    (hs.set_work h (e := .idle) (w := .none) nofun fun _ => rfl).of_part rfl
  unfold Machine.workDropped
  split
  next t hw =>
    cases t with
    | key => exact hi (by simp [hw])
    | scan i => exact hs.free_taken hw
  all_goals next hw => exact hi (by simp [hw])

/-- The head of the queue leaves it, a KEY token. -/
theorem QueueSound.drop_key {code : Byte} {rest : List Token} (hq : s.queue = .key code :: rest) :
    QueueSound { s with queue := rest } := by
  have hqs : queuedSlots s = queuedSlots { s with queue := rest } := queuedSlots_of_cons (k := .key code) hq
  have hl := hs.queue_le
  rw [hq] at hl
  refine ⟨Nat.le_of_succ_le hl, fun st hst i => (hs.place st hst i).trans ?_, hqs ▸ hs.queued_once, hs.ready_once,
    hs.chars_le, hs.held, hs.idle⟩
  cases st with
  | queued => exact iff_of_eq (congrArg (i ∈ ·) hqs)
  | _ => exact Iff.rfl

/-- A SCAN token at the head of the queue: its slot is QUEUED, and has no other token in the queue (R103). -/
theorem QueueSound.scan_head {i : Fin 4} {t : State} (hq : s.queue = .scan i :: t.queue) :
    (getSlot s.slots i).state = .queued ∧ t.queue.length ≤ Config.queueSize ∧ i ∉ queuedSlots t ∧
      (queuedSlots t).Nodup ∧ ∀ j, j ≠ i → (j ∈ queuedSlots t ↔ j ∈ queuedSlots s) := by
  have hqs : queuedSlots s = i :: queuedSlots t := queuedSlots_of_cons (k := .scan i) hq
  have hn := hs.queued_once
  have hl := hs.queue_le
  rw [hqs, List.nodup_cons] at hn
  rw [hq] at hl
  have hmem : i ∈ queuedSlots s := by rw [hqs]; exact List.mem_cons_self
  exact ⟨(hs.place .queued nofun i).2 hmem, Nat.le_of_succ_le hl, hn.1, hn.2, fun j hj => by simp [hqs, hj]⟩

/-- A SCAN token at the head is discarded, its slot FREE (R103, R113). -/
theorem QueueSound.discard_scan {i : Fin 4} {rest : List Token} (hq : s.queue = .scan i :: rest) :
    QueueSound (freeSlot i { s with queue := rest }) := by
  let t : State := freeSlot i { s with queue := rest }
  obtain ⟨ha, hl, hout, honce, hqueued⟩ := hs.scan_head (t := t) hq
  have hrest : ∀ st j, (j = i → st ≠ .queued ∧ st ≠ .free) → (slotPlace t st j ↔ slotPlace s st j) := by
    intro st j h
    cases st with
    | queued => exact hqueued j fun e => (h e).1 rfl
    | _ => exact Iff.rfl
  exact ⟨hl, hs.place_passed rfl ha nofun hout (absurd rfl) hrest, honce, hs.ready_once,
    hs.chars_passed rfl (hs.chars_le i), hs.held, hs.idle⟩

/-- A SCAN token at the head is taken by the IDLE composer, its slot TAKEN (R103, R112). -/
theorem QueueSound.take_scan {i : Fin 4} {rest : List Token} {e : Engine} (hq : s.queue = .scan i :: rest)
    (hw : s.composer.work = .none) (he : e ≠ .idle) : QueueSound (tokenAtWork (.scan i) rest e s) := by
  let t : State := tokenAtWork (.scan i) rest e s
  obtain ⟨ha, hl, hout, honce, hqueued⟩ := hs.scan_head (t := t) hq
  have hrest : ∀ st j, (j = i → st ≠ .queued ∧ st ≠ .taken) → (slotPlace t st j ↔ slotPlace s st j) := by
    intro st j h
    cases st with
    | queued => exact hqueued j fun e => (h e).1 rfl
    | taken => exact iff_of_false (fun hp => by cases hp; exact (h rfl).2 rfl) fun hp => nomatch hw.symm.trans hp
    | _ => exact Iff.rfl
  exact ⟨hl, hs.place_passed rfl ha nofun hout (fun _ => rfl) hrest, honce, hs.ready_once,
    hs.chars_passed rfl (hs.chars_le i), hs.held, fun h => absurd h he⟩

theorem QueueSound.discarded {k : Token} {rest : List Token} (hq : s.queue = k :: rest) :
    QueueSound (freeTokenSlot k { s with queue := rest }) := by
  cases k with
  | key => exact hs.drop_key hq
  | scan i => exact hs.discard_scan hq

theorem QueueSound.taken {k : Token} {rest : List Token} {e : Engine} (hq : s.queue = k :: rest)
    (hi : s.composer.engine = .idle) (he : e ≠ .idle) : QueueSound (tokenAtWork k rest e s) := by
  have hw := hs.idle hi
  cases k with
  | key => exact (hs.drop_key hq).set_work (by simp [hw]) (by simp) fun h => absurd h he
  | scan i => exact hs.take_scan hq hw he

/-! ### Claims -/

/-- The held code's claim joins as a KEY token (R83, R109). -/
theorem QueueSound.join_held {h : HeldCode} {c : Claim} {cs : List Claim} (hc : s.claimOrder = c :: cs)
    (hw : c.who = .held) (hq : s.queue.length < Config.queueSize) (hh : s.holding = some h) :
    QueueSound { s with queue := s.queue ++ [.key h.code], holding := none, claimOrder := cs } := by
  let t : State := { s with queue := s.queue ++ [.key h.code], holding := none, claimOrder := cs }
  have hqs : queuedSlots t = queuedSlots s := (queuedSlots_of_append (k := .key h.code) rfl).trans (List.append_nil _)
  have hro : s.readyOrder = t.readyOrder := by rw [readyOrder_of_cons (t := t) hc, claimSlot, hw]; rfl
  have hheld := hs.held
  rw [heldClaims_of_cons (t := t) hc, hw, hh] at hheld
  refine ⟨?_, fun st hst i => (hs.place st hst i).trans ?_, hqs ▸ hs.queued_once, hro ▸ hs.ready_once, hs.chars_le,
    Nat.succ.inj hheld, hs.idle⟩
  · simpa using hq
  · cases st with
    | queued => exact iff_of_eq (congrArg (i ∈ ·) hqs.symm)
    | ready => exact iff_of_eq (congrArg (i ∈ ·) hro)
    | _ => exact Iff.rfl

/-- A scan's claim joins as a SCAN token, its slot QUEUED (R103, R109). -/
theorem QueueSound.join_scan {i : Fin 4} {c : Claim} {cs : List Claim} (hc : s.claimOrder = c :: cs)
    (hw : c.who = .slot i) (hq : s.queue.length < Config.queueSize) :
    QueueSound (markSlot i .queued { s with queue := s.queue ++ [.scan i], claimOrder := cs }) := by
  let t : State := markSlot i .queued { s with queue := s.queue ++ [.scan i], claimOrder := cs }
  have hqs : queuedSlots t = queuedSlots s ++ [i] := queuedSlots_of_append (k := .scan i) rfl
  have hro : s.readyOrder = i :: t.readyOrder := by rw [readyOrder_of_cons (t := t) hc, claimSlot, hw]; rfl
  have hheld := hs.held
  rw [heldClaims_of_cons (t := t) hc, hw, if_neg nofun, Nat.add_zero] at hheld
  have hn := hs.ready_once
  rw [hro, List.nodup_cons] at hn
  obtain ⟨hout, honce⟩ := hn
  have ha : (getSlot s.slots i).state = .ready :=
    (hs.place .ready nofun i).2 (by rw [slotPlace, hro]; simp)
  have hnew : i ∉ queuedSlots s := hs.not_in_place (st := .queued) ha nofun
  have hrest : ∀ st j, (j = i → st ≠ .ready ∧ st ≠ .queued) → (slotPlace t st j ↔ slotPlace s st j) := by
    intro st j h
    cases st with
    | queued =>
      have hj : j ≠ i := fun e => (h e).2 rfl
      simp [slotPlace, hqs, hj]
    | ready =>
      have hj : j ≠ i := fun e => (h e).1 rfl
      simp [slotPlace, hro, hj]
    | _ => exact Iff.rfl
  have hin : slotPlace t .queued i := by rw [slotPlace, hqs]; simp
  refine ⟨?_, hs.place_passed rfl ha nofun hout (fun _ => hin) hrest, ?_, honce,
    hs.chars_passed rfl (hs.chars_le i), hheld, hs.idle⟩
  · show (s.queue ++ [_]).length ≤ _
    simpa using hq
  · rw [hqs, ← List.concat_eq_append]
    exact hs.queued_once.concat hnew

theorem QueueSound.joined {c : Claim} {cs : List Claim} (hc : s.claimOrder = c :: cs)
    (hq : s.queue.length < Config.queueSize) : QueueSound (joinClaim c { s with claimOrder := cs }) := by
  cases hw : c.who with
  | held =>
    have hheld := hs.held
    rw [heldClaims_of_cons (t := { s with claimOrder := cs }) hc, hw, if_pos rfl] at hheld
    obtain ⟨h, hh⟩ := Option.ne_none_iff_exists'.1 fun hn : s.holding = none => by
      rw [hn] at hheld
      exact Nat.succ_ne_zero _ hheld
    have e : joinClaim c { s with claimOrder := cs } =
        { s with queue := s.queue ++ [.key h.code], holding := none, claimOrder := cs } := by simp [joinClaim, hw, hh]
    rw [e]
    exact hs.join_held hc hw hq hh
  | slot i =>
    have e : joinClaim c { s with claimOrder := cs } =
        markSlot i .queued { s with queue := s.queue ++ [.scan i], claimOrder := cs } := by simp [joinClaim, hw]
    rw [e]
    exact hs.join_scan hc hw hq

theorem QueueSound.codeHeld {code : Byte} (h : s.holding = none) : QueueSound (codeHeld code s) := by
  have hro := readyOrder_codeHeld code s
  have hheld := hs.held
  rw [h] at hheld
  refine ⟨hs.queue_le, fun st hst i => (hs.place st hst i).trans ?_, hs.queued_once, hro ▸ hs.ready_once, hs.chars_le, ?_,
    hs.idle⟩
  · cases st with
    | ready => exact iff_of_eq (congrArg (i ∈ ·) hro.symm)
    | _ => exact Iff.rfl
  · rw [heldClaims_codeHeld, hheld]; rfl

theorem QueueSound.nextTick : QueueSound (nextTick s) := by
  have hro := readyOrder_nextTick s
  refine ⟨hs.queue_le, fun st hst i => (hs.place st hst i).trans ?_, hs.queued_once, hro ▸ hs.ready_once, hs.chars_le,
    (heldClaims_nextTick s).trans hs.held, hs.idle⟩
  cases st with
  | ready => exact iff_of_eq (congrArg (i ∈ ·) hro.symm)
  | _ => exact Iff.rfl

/-! ### The scan in progress -/

/-- A change of the scan in progress that involves no slot. -/
theorem QueueSound.set_collecting {p : ScanProgress} (ho : ∀ i, s.collecting ≠ .collecting i)
    (hp : ∀ i, p ≠ .collecting i) : QueueSound { s with collecting := p } where
  queue_le := hs.queue_le
  place st hst i := (hs.place st hst i).trans (by
    cases st with
    | collecting => exact iff_of_false (ho i) (hp i)
    | _ => exact Iff.rfl)
  queued_once := hs.queued_once
  ready_once := hs.ready_once
  chars_le := hs.chars_le
  held := hs.held
  idle := hs.idle

/-- A FREE slot becomes COLLECTING, the scan in progress its own (R95). -/
theorem QueueSound.scanStarted {i : Fin 4} (hc : s.collecting = .none) (hf : (getSlot s.slots i).state = .free) :
    QueueSound (scanStarted i s) := by
  have hrest : ∀ st j, (j = i → st ≠ .free ∧ st ≠ .collecting) →
      (slotPlace (Machine.scanStarted i s) st j ↔ slotPlace s st j) := by
    intro st j h
    cases st with
    | collecting =>
      exact iff_of_false (fun hp => by cases hp; exact (h rfl).2 rfl) fun hp => nomatch hc.symm.trans hp
    | _ => exact Iff.rfl
  exact ⟨hs.queue_le, hs.place_passed rfl hf nofun id (fun _ => rfl) hrest, hs.queued_once, hs.ready_once,
    hs.chars_passed rfl (Nat.zero_le _), hs.held, hs.idle⟩

/-- A frame stored leaves its slot in its state, with at most 40 characters (R92, R96). -/
theorem QueueSound.appendFrame (i : Fin 4) (fr : FrameResult) : QueueSound (appendFrame i fr s) := by
  have hlen : (storeFrame fr (getSlot s.slots i)).chars.length ≤ Config.slotSize := by
    have h := hs.chars_le i
    unfold storeFrame
    dsimp only
    split
    next hlt => simpa using hlt
    next => exact h
  have hstate (j : Fin 4) : (getSlot (Machine.appendFrame i fr s).slots j).state = (getSlot s.slots j).state := by
    show (getSlot (setSlot _ _ _) _).state = _
    rw [getSlot_setSlot]
    split
    next h => rw [h]; rfl
    next => rfl
  refine ⟨hs.queue_le, fun st hst j => ?_, hs.queued_once, hs.ready_once, hs.chars_passed rfl hlen, hs.held, hs.idle⟩
  rw [hstate, hs.place st hst j]
  cases st <;> exact Iff.rfl

/-- The scan in progress ends and is dropped, its slot FREE (R100, R103). -/
theorem QueueSound.dropScan {i : Fin 4} (hc : s.collecting = .collecting i) :
    QueueSound (dropScan i (scanStamped i s)) := by
  let x : ScanSlot := { getSlot s.slots i with state := .free, stamp := none }
  let t : State := { s with collecting := .none, slots := setSlot s.slots i x }
  have ha : (getSlot s.slots i).state = .collecting := (hs.place .collecting nofun i).2 hc
  have hrest : ∀ st j, (j = i → st ≠ .collecting ∧ st ≠ .free) → (slotPlace t st j ↔ slotPlace s st j) := by
    intro st j h
    cases st with
    | collecting => exact iff_of_false nofun fun hp => by cases hc.symm.trans hp; exact (h rfl).1 rfl
    | _ => exact Iff.rfl
  have ht : QueueSound t :=
    ⟨hs.queue_le, hs.place_passed (x := x) rfl ha nofun nofun (absurd rfl) hrest, hs.queued_once, hs.ready_once,
      hs.chars_passed (x := x) rfl (hs.chars_le i), hs.held, hs.idle⟩
  refine ht.of_part ?_
  unfold queuePart
  rw [dropScan_slots]
  rfl

/-- The scan in progress ends and is accepted, its slot READY with the last claim (R101, R103, R108). -/
theorem QueueSound.acceptScan {i : Fin 4} {w : Word} (hc : s.collecting = .collecting i) :
    QueueSound (acceptScan i w (scanStamped i s)) := by
  let x : ScanSlot := { getSlot s.slots i with state := .ready, stamp := some s.timer.counter }
  let t : State :=
    { s with collecting := .none, slots := setSlot s.slots i x, claimOrder := s.claimOrder ++ [⟨.slot i, true⟩] }
  have ha : (getSlot s.slots i).state = .collecting := (hs.place .collecting nofun i).2 hc
  have hro : t.readyOrder = s.readyOrder ++ [i] := readyOrder_of_append (c := ⟨.slot i, true⟩) rfl
  have hnew : i ∉ s.readyOrder := hs.not_in_place (st := .ready) ha nofun
  have hrest : ∀ st j, (j = i → st ≠ .collecting ∧ st ≠ .ready) → (slotPlace t st j ↔ slotPlace s st j) := by
    intro st j h
    cases st with
    | ready =>
      have hj : j ≠ i := fun e => (h e).2 rfl
      simp [slotPlace, hro, hj]
    | collecting => exact iff_of_false nofun fun hp => by cases hc.symm.trans hp; exact (h rfl).1 rfl
    | _ => exact Iff.rfl
  have hin : slotPlace t .ready i := by rw [slotPlace, hro]; simp
  have honce : t.readyOrder.Nodup := by
    rw [hro, ← List.concat_eq_append]
    exact hs.ready_once.concat hnew
  have ht : QueueSound t :=
    ⟨hs.queue_le, hs.place_passed (x := x) rfl ha nofun nofun (fun _ => hin) hrest, hs.queued_once, honce,
      hs.chars_passed (x := x) rfl (hs.chars_le i), (heldClaims_of_append (c := ⟨.slot i, true⟩) rfl).trans hs.held,
      hs.idle⟩
  refine ht.of_part ?_
  unfold queuePart
  rw [acceptScan_slots]
  rfl

end

/-! ### Every step -/

theorem queueSound_reset : QueueSound State.reset := ((queueAgrees_iff _).1 queueAgrees_reset).1

theorem queueSound_move {s t : State} (hm : QueueMove s t) (hs : QueueSound s) : QueueSound t := by
  cases hm with
  | calm h => exact hs.of_part h
  | ended => exact hs.workDropped
  | begun h he hw =>
    have ho := hs.idle h
    exact hs.set_work (by simp [ho]) (fun _ => hw _) fun h => absurd h he
  | paused => exact ⟨hs.queue_le, hs.place, hs.queued_once, hs.ready_once, hs.chars_le, hs.held, nofun⟩
  | taken hq hi he => exact hs.taken hq hi he
  | discarded hq => exact hs.discarded hq
  | joined hc hq => exact hs.joined hc hq
  | held code h => exact hs.codeHeld h
  | started hc hf => exact hs.scanStarted hc hf
  | stored i fr => exact hs.appendFrame i fr
  | lost h hp => exact hs.set_collecting h hp
  | dropped h => exact hs.dropScan h
  | accepted w h => exact hs.acceptScan h
  | aged => exact hs.nextTick
  | cold => exact queueSound_reset.of_part rfl

/-- Settles O58: every move keeps each slot in its place, and claims join at the end of every event. -/
theorem queueAndSlotsStayInAgreement : Obligations.QueueAndSlotsStayInAgreement := by
  intro s t hs h
  obtain ⟨hsound, hj⟩ := (queueAgrees_iff s).1 hs
  exact (queueAgrees_iff t).2 (step_keeps_queue (fun _ _ => queueSound_move) h hsound hj)

end Sys2Proof.Machine
end

section
/-! The end of a scan (R97 to R101, R103, R109), the compares' expiries and the tick (R89 to R91, R98, R102, R108). -/

namespace Sys2Proof.Machine

/-! ### The gap compare (R98) -/

theorem gapExpiry_losing {s : State} (h : s.collecting = .losing) :
    gapExpiry s = { s with timer.gap := none, collecting := .none } := by simp [gapExpiry, endScan, h]

theorem gapExpiry_collecting {s : State} {i : Fin 4} (h : s.collecting = .collecting i) :
    gapExpiry s = judgeScan i s.timer.counter (scanStamped i s) := by simp [gapExpiry, endScan, h, scanStamped]

/-! ### The judgement of a scan, and its claim -/

theorem slotMarked_iff (v : ScanSlot) :
    slotMarked v = true ↔ v.parity = true ∨ v.framing = true ∨ v.illegal = true ∨ v.overflow = true := by
  simp [slotMarked, or_assoc]

theorem isDuplicate_iff (v : ScanSlot) (s : State) :
    isDuplicate v s = true ↔ s.record.valid = true ∧ v.chars = s.record.chars := by simp [isDuplicate]

theorem acceptScan_queue (i : Fin 4) (w : Word) (s : State) : (acceptScan i w (scanStamped i s)).queue = s.queue := rfl

/-- The scan of slot i accepted, its claim joined (R101, R103, R109). -/
def scanJoined (i : Fin 4) (s : State) : State :=
  { acceptScan i s.timer.counter (scanStamped i s) with
    queue := s.queue ++ [.scan i], claimOrder := []
    slots := setSlot s.slots i { getSlot s.slots i with state := .queued, stamp := some s.timer.counter } }

theorem joinClaims_accepted_room {i : Fin 4} {s : State} (hj : claimsJoined s) (hq : s.queue.length < 32) :
    joinClaims (acceptScan i s.timer.counter (scanStamped i s)) = scanJoined i s := by
  let x : State := acceptScan i s.timer.counter (scanStamped i s)
  have ho : s.claimOrder = [] := hj.resolve_right (by simp only [Config.queueSize]; omega)
  have hc : x.claimOrder = [⟨.slot i, true⟩] := by
    show s.claimOrder ++ _ = _
    rw [ho]; rfl
  have hroom : x.queue.length < Config.queueSize := hq
  have hslots : (markSlot i .queued x).slots =
      setSlot s.slots i { getSlot s.slots i with state := .queued, stamp := some s.timer.counter } := by
    show setSlot x.slots i { getSlot x.slots i with state := .queued } = _
    rw [acceptScan_slots, setSlot_setSlot, getSlot_set_same]
  show joinFrom x.claimOrder x = _
  rw [hc, joinFrom, if_pos hroom]
  show ({ markSlot i .queued x with queue := s.queue ++ [.scan i], claimOrder := [] } : State) = _
  unfold scanJoined
  rw [← hslots]
  rfl

/-- A scan that ends is dropped, or is accepted with its claim joined or waiting (R99, R109). -/
theorem judgeScan_joined (i : Fin 4) {s : State} (hj : claimsJoined s) :
    let marked := slotMarked (getSlot s.slots i) = true ∨ isDuplicate (getSlot s.slots i) s = true
    let x := joinClaims (judgeScan i s.timer.counter (scanStamped i s))
    marked ∧ x = dropScan i (scanStamped i s) ∨
      ¬marked ∧ s.queue.length < 32 ∧ x = scanJoined i s ∨
      ¬marked ∧ 32 ≤ s.queue.length ∧ x = acceptScan i s.timer.counter (scanStamped i s) := by
  intro marked x
  have hv : getSlot (scanStamped i s).slots i = { getSlot s.slots i with stamp := some s.timer.counter } :=
    getSlot_set_same _ _ _
  have hm : (slotMarked (getSlot (scanStamped i s).slots i) ||
      isDuplicate (getSlot (scanStamped i s).slots i) (scanStamped i s)) = true ↔ marked := by
    rw [hv]
    exact Bool.or_eq_true_iff
  by_cases h : marked
  · have e : judgeScan i s.timer.counter (scanStamped i s) = dropScan i (scanStamped i s) := by
      rw [judgeScan, if_pos (hm.2 h)]
    have hd : claimsJoined (dropScan i (scanStamped i s)) :=
      claimsJoined_of_queue hj (by simp [dropScan, scanStamped]) (by simp [dropScan, scanStamped])
    exact .inl ⟨h, (congrArg joinClaims e).trans (joinClaims_id _ hd)⟩
  · have e : judgeScan i s.timer.counter (scanStamped i s) = acceptScan i s.timer.counter (scanStamped i s) := by
      rw [judgeScan, if_neg (mt hm.1 h)]
    have hfull (hq : 32 ≤ s.queue.length) : claimsJoined (acceptScan i s.timer.counter (scanStamped i s)) := by
      right
      rw [acceptScan_queue]
      exact hq
    rcases Nat.lt_or_ge s.queue.length 32 with hq | hq
    · exact .inr (.inl ⟨h, hq, (congrArg joinClaims e).trans (joinClaims_accepted_room hj hq)⟩)
    · exact .inr (.inr ⟨h, hq, (congrArg joinClaims e).trans (joinClaims_id _ (hfull hq))⟩)

/-! ### The two ways a scan ends (R97, R98) -/

/-- What either end of a scan leaves: the scan judged, and the lines as they were or, after a terminator frame, as the frame
leaves them. -/
def ScanEndRuns (i : Fin 4) (c : Instr) (n : Lines) (s : State) : Prop :=
  ∃ t, exec c s = .next t ∧ linesOf t = n ∧
    besidesStatus t = besidesStatus (withLines n (joinClaims (judgeScan i s.timer.counter (scanStamped i s))))

theorem gapEnds_runs {i : Fin 4} {s : State} (hc : s.collecting = .collecting i)
    (hg : s.timer.gap = some s.timer.counter) : ScanEndRuns i .gapCompareExpiry (linesOf s) s :=
  linesEvent_runs (f := gapExpiry) (by simp [dueNow, hg])
    ((gapExpiry_collecting hc).trans (judgeScan_withLines i _ (linesOf s) (scanStamped i s)))

theorem terminatorEnds_runs {i : Fin 4} {s : State} (hcold : s.coldAsserted = false) (hc : s.collecting = .collecting i)
    (ht : s.terminator.toNat < 0x80) :
    ScanEndRuns i (.scannerFrame s.terminator false false) (linesAfterFrame ⟨s.terminator, false, false⟩ s) s := by
  have hff : s.terminator ≠ 0xFF#8 := fun h => by rw [h] at ht; exact absurd ht (by decide)
  have hterm : isTerminator ⟨s.terminator, false, false⟩ s = true := (isTerminator_iff _ s).2 ⟨hff, rfl, rfl, rfl⟩
  have hr : scannerResult ⟨s.terminator, false, false⟩ s = judgeScan i s.timer.counter (scanStamped i s) :=
    (scannerResult_good rfl s).trans (collectFrame_terminates hterm hc)
  unfold ScanEndRuns
  rw [← hr]
  exact scannerFrame_runs (fr := ⟨s.terminator, false, false⟩) hcold (frameFits_of (.inr ht) nofun)

/-- The state with what the end of a scan and the frame that ends it may change taken from t, but for the causes and the scan
in progress. -/
def withScanEnd (t s : State) : State :=
  { s with
    scanner := t.scanner, lineFormat := t.lineFormat, pendingFormat := t.pendingFormat, slots := t.slots
    record := t.record, queue := t.queue, claimOrder := t.claimOrder, timer := t.timer, tone := t.tone
    report.counters := t.report.counters }

/-- The state but for all that and the causes. -/
def besidesScanEnd (s : State) : State := withScanEnd State.reset (besidesCauses s)

theorem besidesCauses_of_scanEnd {s t : State} (h : besidesScanEnd t = besidesScanEnd s) :
    besidesCauses t = besidesCauses (withScanEnd t s) :=
  (congrArg (fun y => besidesCauses (withScanEnd t y)) h :)

theorem besidesScanEnd_withLines {n : Lines} {s : State} (h : n.keyboard = s.keyboard) :
    besidesScanEnd (withLines n s) = besidesScanEnd s := by
  show ({ besidesScanEnd s with keyboard := n.keyboard } : State) = _
  rw [h]
  rfl

theorem besidesScanEnd_of_lines {n : Lines} {t x : State} (hb : besidesStatus t = besidesStatus (withLines n x))
    (h : n.keyboard = x.keyboard) : besidesScanEnd t = besidesScanEnd x :=
  (congrArg besidesScanEnd hb : besidesScanEnd (besidesStatus t) = besidesScanEnd (besidesStatus (withLines n x))).trans
    (besidesScanEnd_withLines h)

/-- What the end of a scan changes, read through the end of its event. -/
theorem scanEnd_fields {n : Lines} {t x : State} (h : besidesStatus t = besidesStatus (withLines n x)) :
    t.slots = x.slots ∧ t.record = x.record ∧ t.queue = x.queue ∧ t.claimOrder = x.claimOrder ∧ t.timer = x.timer ∧
      t.tone = x.tone ∧ t.report.pending = x.report.pending ∧ t.report.counters = x.report.counters := by
  have keeps {α : Type} (g : State → α) : g (besidesStatus t) = g (besidesStatus (withLines n x)) := congrArg g h
  exact ⟨keeps State.slots, keeps State.record, keeps State.queue, keeps State.claimOrder, keeps State.timer,
    keeps State.tone, keeps fun y => y.report.pending, keeps fun y => y.report.counters⟩

/-- A dropped scan: SCAN DROP, its count and a tone (R100). -/
theorem dropScan_fields (i : Fin 4) (s : State) :
    let x := dropScan i (scanStamped i s)
    x.record = s.record ∧ x.queue = s.queue ∧ x.claimOrder = s.claimOrder ∧
      x.report.pending = s.report.pending ||| 0x04#8 ∧
      x.report.counters = { s.report.counters with scanDrop := countUp s.report.counters.scanDrop } ∧ x.tone = true ∧
      x.timer = { s.timer with gap := none, toneCompare := some (s.timer.counter + 1000#16) } ∧
      x.keyboard = s.keyboard ∧ besidesScanEnd x = besidesScanEnd { s with collecting := .none } := by
  unfold dropScan toneTrigger count offer driveAttn freeSlot scanStamped
  exact ⟨rfl, rfl, rfl, rfl, rfl, rfl, rfl, rfl, rfl⟩

/-- What an accepted scan leaves beside its slot and its claim: the record replaced, the holdoff armed or disarmed, no cause
and no tone (R101). -/
def ScanAccepted (i : Fin 4) (s x : State) : Prop :=
  x.record = { valid := decide (s.timer.holdoffTicks ≠ 0#16), chars := (getSlot s.slots i).chars } ∧
    x.timer =
      { s.timer with
        gap := none
        holdoff := if s.timer.holdoffTicks = 0#16 then none else some (s.timer.counter + s.timer.holdoffTicks) } ∧
    x.report.pending = s.report.pending ∧ x.report.counters = s.report.counters ∧ x.tone = s.tone ∧
    x.keyboard = s.keyboard ∧ besidesScanEnd x = besidesScanEnd { s with collecting := .none }

theorem acceptScan_accepted (i : Fin 4) (s : State) :
    ScanAccepted i s (acceptScan i s.timer.counter (scanStamped i s)) := by
  refine ⟨?_, ?_, rfl, rfl, rfl, rfl, rfl⟩
  · have hv : (s.timer.holdoffTicks != 0#16) = decide (s.timer.holdoffTicks ≠ 0#16) := by
      rw [decide_not]; rfl
    show ScanRecord.mk (s.timer.holdoffTicks != 0#16) (getSlot (setSlot _ _ _) _).chars = _
    rw [hv, getSlot_set_same]
  · show armHoldoff s.timer.counter { s.timer with gap := none } = _
    unfold armHoldoff
    dsimp only
    split <;> rfl

theorem scanJoined_accepted (i : Fin 4) (s : State) : ScanAccepted i s (scanJoined i s) :=
  acceptScan_accepted i s

/-- Settles O26: the two ends of a scan leave it judged, and the judgement drops it, queues its token or leaves its claim
waiting. -/
theorem scanJudgedAtItsEnd : Obligations.ScanJudgedAtItsEnd := by
  intro s i c hj hcold hc hend v bad same
  obtain ⟨n, hkbd, hgap, t, ht, hn, hb⟩ : ∃ n : Lines, n.keyboard = s.keyboard ∧
      (c = .gapCompareExpiry → n = linesOf s) ∧ ScanEndRuns i c n s := by
    rcases hend with ⟨rfl, hg⟩ | ⟨rfl, hterm⟩
    · exact ⟨linesOf s, rfl, fun _ => rfl, gapEnds_runs hc hg⟩
    · exact ⟨_, (linesAfterFrame_receivers _ s).1, nofun, terminatorEnds_runs hcold hc hterm⟩
  subst hn
  have hmarked : (slotMarked v = true ∨ isDuplicate v s = true) ↔ (bad ∨ same) :=
    or_congr (slotMarked_iff v) (isDuplicate_iff v s)
  have hlines (h : c = .gapCompareExpiry) :
      t.scanner = s.scanner ∧ t.lineFormat = s.lineFormat ∧ t.pendingFormat = s.pendingFormat :=
    ⟨congrArg Lines.scanner (hgap h), congrArg Lines.lineFormat (hgap h), congrArg Lines.pendingFormat (hgap h)⟩
  have hslot {x : ScanSlot} (hx : t.slots = setSlot s.slots i x) :
      getSlot t.slots i = x ∧ ∀ j, j ≠ i → getSlot t.slots j = getSlot s.slots j := by
    rw [hx]
    exact ⟨getSlot_set_same _ _ _, fun j hji => getSlot_set_other _ _ hji⟩
  obtain ⟨hm, hx⟩ | ⟨hm, hq, hx⟩ | ⟨hm, hq, hx⟩ := judgeScan_joined i hj
  case inl =>
    obtain ⟨xrec, xque, xord, xpend, xcount, xtone, xtim, xkbd, xrest⟩ := dropScan_fields i s
    rw [hx] at hb
    obtain ⟨hslots, hrec, hque, hord, htim, htone, hpend, hcount⟩ := scanEnd_fields hb
    have hrest := besidesCauses_of_scanEnd ((besidesScanEnd_of_lines hb (hkbd.trans xkbd.symm)).trans xrest)
    obtain ⟨hown, hothers⟩ := hslot (hslots.trans (dropScan_slots i s))
    refine ⟨t, ht, hrest, hlines, hothers, fun _ => ?_, fun hnb hns => absurd (hmarked.1 hm) (not_or.2 ⟨hnb, hns⟩)⟩
    exact ⟨hown, hrec.trans xrec, hque.trans xque, hord.trans xord, hpend.trans xpend, hcount.trans xcount,
      htone.trans xtone, htim.trans xtim⟩
  case inr.inl =>
    obtain ⟨xrec, xtim, xpend, xcount, xtone, xkbd, xrest⟩ := scanJoined_accepted i s
    rw [hx] at hb
    obtain ⟨hslots, hrec, hque, hord, htim, htone, hpend, hcount⟩ := scanEnd_fields hb
    have hrest := besidesCauses_of_scanEnd ((besidesScanEnd_of_lines hb (hkbd.trans xkbd.symm)).trans xrest)
    obtain ⟨hown, hothers⟩ := hslot hslots
    refine ⟨t, ht, hrest, hlines, hothers, fun h => absurd (hmarked.2 h) hm, fun _ _ => ?_⟩
    exact ⟨hrec.trans xrec, htim.trans xtim, hpend.trans xpend, hcount.trans xcount, htone.trans xtone,
      fun _ => ⟨hown, hque, hord⟩, fun hfull => absurd hq (Nat.not_lt.2 hfull)⟩
  case inr.inr =>
    obtain ⟨xrec, xtim, xpend, xcount, xtone, xkbd, xrest⟩ := acceptScan_accepted i s
    rw [hx] at hb
    obtain ⟨hslots, hrec, hque, hord, htim, htone, hpend, hcount⟩ := scanEnd_fields hb
    have hrest := besidesCauses_of_scanEnd ((besidesScanEnd_of_lines hb (hkbd.trans xkbd.symm)).trans xrest)
    obtain ⟨hown, hothers⟩ := hslot (hslots.trans (acceptScan_slots i _ s))
    refine ⟨t, ht, hrest, hlines, hothers, fun h => absurd (hmarked.2 h) hm, fun _ _ => ?_⟩
    exact ⟨hrec.trans xrec, htim.trans xtim, hpend.trans xpend, hcount.trans xcount, htone.trans xtone,
      fun hroom => absurd hroom (Nat.not_lt.2 hq), fun _ => ⟨hown, hque.trans (acceptScan_queue i _ s), hord⟩⟩

/-! ### The expiries and the tick -/

theorem scanExpiries_none {s : State} (hg : s.timer.gap ≠ some s.timer.counter)
    (hh : s.timer.holdoff ≠ some s.timer.counter) : scanExpiries s = s := by
  simp [scanExpiries, gapIfDue, holdoffIfDue, dueNow, hg, hh]

theorem toneIfDue_due {s : State} (h : s.timer.toneCompare = some s.timer.counter) : toneIfDue s = toneExpiry s := by
  simp [toneIfDue, dueNow, h]

theorem toneIfDue_idle {s : State} (h : s.timer.toneCompare ≠ some s.timer.counter) : toneIfDue s = s := by
  simp [toneIfDue, dueNow, h]

theorem claimsJoined_nextTick {s : State} (h : claimsJoined s) : claimsJoined (nextTick s) :=
  h.imp_left fun ho => by rw [nextTick, ho]; rfl

/-- A tick with neither the gap compare nor the holdoff compare due: the tone's expiry if it is due, then the counter. -/
theorem tick_runs {s : State} (hj : claimsJoined s) (hc : s.coldAsserted = false)
    (hg : s.timer.gap ≠ some s.timer.counter) (hh : s.timer.holdoff ≠ some s.timer.counter) :
    ∃ t, exec .keyingTimerTick s = .next t ∧ besidesStatus t = besidesStatus (nextTick (toneIfDue s)) := by
  have hz : (toneIfDue s).timer.gap = s.timer.gap ∧ (toneIfDue s).timer.holdoff = s.timer.holdoff ∧
      (toneIfDue s).timer.counter = s.timer.counter ∧ claimsJoined (toneIfDue s) := by
    unfold toneIfDue; split <;> exact ⟨rfl, rfl, rfl, hj⟩
  obtain ⟨hzg, hzh, hzc, hzj⟩ := hz
  have e : tick s = nextTick (toneIfDue s) :=
    congrArg nextTick (scanExpiries_none (by rwa [hzg, hzc]) (by rwa [hzh, hzc]))
  obtain ⟨t, ht, hb⟩ := event_effect (!s.coldAsserted) tick s (by simp [hc]) (by rw [e]; exact claimsJoined_nextTick hzj)
  exact ⟨t, ht, by rw [hb, e]⟩

/-- Settles O27: each expiry is one event, and a tick is the tone's expiry, if it is due, before the counter rises. -/
theorem comparesExpireAndTicksCount : Obligations.ComparesExpireAndTicksCount := by
  refine ⟨fun s hj => ⟨fun h => ?_, fun h => ?_, fun h hl => ?_⟩, fun s hj hc hg hh => ?_⟩
  · exact event_effect _ holdoffExpiry s (by simp [dueNow, h]) hj
  · exact event_effect _ toneExpiry s (by simp [dueNow, h]) hj
  · have e := gapExpiry_losing hl
    obtain ⟨t, ht, hb⟩ := event_effect (dueNow s.timer.gap s) gapExpiry s (by simp [dueNow, h]) (by rw [e]; exact hj)
    exact ⟨t, ht, by rw [hb, e]⟩
  · obtain ⟨t, ht, hb⟩ := tick_runs hj hc hg hh
    refine ⟨fun hn => ⟨t, ht, ?_⟩, fun hd => ⟨t, ht, ?_⟩⟩
    · rw [hb, toneIfDue_idle hn]; rfl
    · rw [hb, toneIfDue_due hd]; rfl

end Sys2Proof.Machine
end

section
/-! The verdict on the head of the token queue, and the claim that joins when the head leaves a full queue (R108 to R112,
R115, R117, R132, R149). -/

namespace Sys2Proof.Machine

/-! ### The head taken for application -/

/-- What a token's taking notes of a send: its key code, the cursor, and no abort mark (R149). -/
def sendNoted (t : Token) (c : Composer) : Composer :=
  match t with
  | .key code => if isSendCode code then { c with keyCode := code, cursorAtSend := c.cursor, abortMark := false } else c
  | .scan _ => c

theorem sendNoted_keeps (t : Token) (c : Composer) :
    (sendNoted t c).cursor = c.cursor ∧ (sendNoted t c).insertMode = c.insertMode := by
  cases t with
  | key code => unfold sendNoted; dsimp only; split <;> exact ⟨rfl, rfl⟩
  | scan i => exact ⟨rfl, rfl⟩

/-- The head t at the composer, its send noted and the table its working table, the rest left in the queue (R112, R127,
R149). -/
def headTaken (t : Token) (rest : List Token) (s : State) : State :=
  { takeSlot t s with
    queue := rest
    composer :=
      { sendNoted t s.composer with
        engine := if isSendToken t then .send else .token, work := .token t, begun := false
        workingTable := some s.map.table } }

theorem takeToken_eq (t : Token) (rest : List Token) (s : State) :
    takeToken t rest s =
      if s.map.state = .limit ∧ worksInLimit t = false then refuse .formatLimit (headTaken t rest s)
      else headTaken t rest s := by
  have h : noteSend t
      (takeSlot t
        { s with
          queue := rest, composer.engine := if isSendToken t then .send else .token, composer.work := .token t,
          composer.begun := false, composer.workingTable := some s.map.table }) = headTaken t rest s := by
    cases t with
    | key code =>
      cases hc : isSendCode code <;> simp [noteSend, headTaken, sendNoted, isSendToken, takeSlot, hc]
    | scan i => rfl
  unfold takeToken
  dsimp only
  rw [h]

/-- An arrow key or RST is carried out in LIMIT (R132). -/
theorem worksInLimit_iff (t : Token) :
    worksInLimit t = true ↔
      ∃ code : Byte, t = .key code ∧ ((0x80 ≤ code.toNat ∧ code.toNat ≤ 0x83) ∨ code = 0x8F#8) := by
  cases t with
  | key c => simp [worksInLimit, isArrowCode]
  | scan i => simp [worksInLimit]

/-- The slot of a SCAN token refused at its taking is FREE, as if it had not been TAKEN. -/
theorem slots_freed_after_taken (t : Token) (rest : List Token) (s : State) :
    (freeTokenSlot t (headTaken t rest s)).slots = (freeTokenSlot t s).slots := by
  cases t with
  | key c => rfl
  | scan i =>
    show setSlot (setSlot _ _ _) _ { getSlot (setSlot _ _ _) _ with state := _, stamp := _ } = _
    rw [setSlot_setSlot, getSlot_set_same]
    rfl

/-- A head refused in LIMIT (R115, R132): it leaves the queue, and the composer has no work. -/
def headRefused (t : Token) (rest : List Token) (s : State) : State :=
  freeTokenSlot t
    { s with
      queue := rest, lock := .error .formatLimit, tone := true
      timer.toneCompare := some (s.timer.counter + 1000#16)
      composer := idleWith s.composer.cursor s.composer.insertMode (sendNoted t s.composer) }

theorem refuse_headTaken {t : Token} {rest : List Token} {s : State} (hf : rangeFree s) (hl : s.lock = .opened) :
    refuse .formatLimit (headTaken t rest s) = headRefused t rest s := by
  obtain ⟨hr, hp, -⟩ := hf
  have keeps : (takeSlot t s).heldRange = s.heldRange ∧ (takeSlot t s).posting = s.posting ∧
      (takeSlot t s).lock = s.lock := by cases t <;> exact ⟨rfl, rfl, rfl⟩
  obtain ⟨kr, kp, kl⟩ := keeps
  rw [refuse_free (s := headTaken t rest s) .formatLimit (kr.trans hr) (kp.trans hp) rfl (kl.trans hl),
    slots_freed_after_taken]
  unfold headTaken headRefused
  dsimp only
  rw [(sendNoted_keeps t s.composer).1, (sendNoted_keeps t s.composer).2]
  cases t <;> rfl

/-! ### The verdict, case by case (R111) -/

section
variable {s : State} {t : Token} {rest : List Token} (hq : s.queue = t :: rest)
include hq

theorem headVerdict_opened (hl : s.lock = .opened) : headVerdict s = takeToken t rest s := by
  simp only [headVerdict, hq, hl]

theorem headVerdict_taken (hl : s.lock = .opened) (hm : s.map.state = .current ∨ worksInLimit t = true) :
    headVerdict s = headTaken t rest s := by
  rw [headVerdict_opened hq hl, takeToken_eq, if_neg]
  rintro ⟨h1, h2⟩
  rcases hm with h | h
  · simp [h] at h1
  · simp [h] at h2

theorem headVerdict_refused (hf : rangeFree s) (hl : s.lock = .opened) (hm : s.map.state = .limit)
    (hw : worksInLimit t = false) : headVerdict s = headRefused t rest s := by
  rw [headVerdict_opened hq hl, takeToken_eq, if_pos ⟨hm, hw⟩, refuse_headTaken hf hl]

theorem headVerdict_kept {why : LockReason} (hl : s.lock = .system why) (ht : typeahead s = true) :
    headVerdict s = s := by
  simp only [headVerdict, hq, hl, ht, if_true]

theorem headVerdict_discarded
    (h : ((∃ why, s.lock = .system why) ∧ typeahead s = false) ∨ ((∃ e, s.lock = .error e) ∧ t ≠ .key 0x8F#8)) :
    headVerdict s = discardToken t rest s := by
  rcases h with ⟨⟨why, hl⟩, ht⟩ | ⟨⟨e, hl⟩, ht⟩
  · simp only [headVerdict, hq, hl, ht, Bool.false_eq_true, if_false]
  · simp only [headVerdict, hq, hl, ht, if_false]

theorem headVerdict_reset {e : ErrorCode} (hl : s.lock = .error e) (ht : t = .key 0x8F#8) :
    headVerdict s = { s with queue := rest, lock := .opened } := by
  simp only [headVerdict, hq, hl, ht, if_true]

end

/-! ### The event -/

theorem headOffered_of_due {s : State} {t : Token} {rest : List Token} (hd : verdictDue s) (hq : s.queue = t :: rest) :
    headOffered s = true := by
  obtain ⟨he, ha, hi, hu, hm⟩ := hd
  have hm' : mapSettled s = true := by simpa [mapSettled] using hm
  simp [headOffered, composerFree, hq, he, ha, hi, hu, hm']

/-- The head has left the queue: the first claim that waited, if there is one, joins at the end of the event (R109). -/
theorem headGone_runs {s x : State} {t : Token} {rest : List Token} (hd : verdictDue s) (hq : s.queue = t :: rest)
    (hj : claimsJoined s) (hl : s.queue.length ≤ 32)
    (hh : ∀ c, s.claimOrder.head? = some c → c.who = .held → s.holding ≠ none) (hx : headVerdict s = x)
    (hxq : x.queue = rest) (hxc : x.claimOrder = s.claimOrder) (hxh : x.holding = s.holding) :
    ∃ r, exec .headVerdict s = .next r ∧ besidesStatus r = besidesStatus (firstJoined x) := by
  have hplace : x.claimOrder = [] ∨ x.queue.length + 1 = Config.queueSize := by
    rw [hxc, hxq]
    refine hj.imp_right fun h => ?_
    have hlen : s.queue.length = rest.length + 1 := by rw [hq]; rfl
    exact hlen ▸ Nat.le_antisymm hl h
  subst hx
  exact event_joined _ headVerdict s (headOffered_of_due hd hq) hplace (by rwa [hxc, hxh])

/-- Settles O29: the five verdicts, and the claim that joins behind each head that leaves. -/
theorem headVerdictTable : Obligations.HeadVerdictTable := by
  intro s u h rest hd hu hq hj hlen hheld hfree arrowOrReset result freed noted
  have runs {x : State} (hx : headVerdict s = x) (hxq : x.queue = rest) (hxc : x.claimOrder = s.claimOrder)
      (hxh : x.holding = s.holding) : result x := headGone_runs hd hq hj hlen hheld hx hxq hxc hxh
  have htype : typeahead s = typeaheadOn u := by simp [typeahead, hu]
  refine ⟨fun hl hm => ?_, fun hl hm hn => ?_, fun why hl ht => ?_, fun hdis => ?_, fun e hl ht => ?_⟩
  · have hx := headVerdict_taken hq hl (hm.imp_right (worksInLimit_iff h).2)
    refine ⟨?_, ?_⟩
    · rintro i rfl
      exact runs hx rfl rfl rfl
    · rintro code rfl
      exact runs hx rfl rfl rfl
  · have hw : worksInLimit h = false := Bool.eq_false_iff.2 (mt (worksInLimit_iff h).1 hn)
    have hx := headVerdict_refused hq hfree hl hm hw
    cases h with
    | key code => exact runs hx rfl rfl rfl
    | scan i => exact runs hx rfl rfl rfl
  · have hx := headVerdict_kept hq hl (htype.trans ht)
    obtain ⟨t, ht, hb⟩ := event_effect _ headVerdict s (headOffered_of_due hd hq) (by rwa [hx])
    exact ⟨t, ht, by rw [hb, hx]⟩
  · have hx := headVerdict_discarded hq (by rwa [htype])
    cases h with
    | key code => exact runs hx rfl rfl rfl
    | scan i => exact runs hx rfl rfl rfl
  · exact runs (headVerdict_reset hq hl ht) rfl rfl rfl

end Sys2Proof.Machine
end

section
/-! LOCK and UNLK (R118, R146, R174 to R176). -/

namespace Sys2Proof.Machine

/-! ### A directive's event -/

/-- A directive that the composer can take runs in the event of its taking, and claims join at its end (R109, R174). -/
theorem directiveRow_joins {d : Directive} {f : State → State} {s x : State} (h : directiveReady d s)
    (hx : f (takeDirective d s) = x) :
    ∃ t, directiveRow d f s = .next t ∧ besidesStatus t = besidesStatus (joinClaims x) := by
  obtain ⟨hi, hc, he, ha⟩ := h
  subst hx
  exact ⟨_, event_true _ (fun s => f (takeDirective d s)) s (by simp [directiveWaits, hi, hc, he, ha]),
    besidesStatus_settle _ _⟩

/-- The queue and the claims as they were, no claim joins. -/
theorem directiveRow_answers {d : Directive} {f : State → State} {s x : State} (h : directiveReady d s)
    (hx : f (takeDirective d s) = x) (hj : claimsJoined s) (hc : x.claimOrder = s.claimOrder)
    (hq : x.queue = s.queue) : ∃ t, directiveRow d f s = .next t ∧ besidesStatus t = besidesStatus x := by
  have hrow := directiveRow_joins h hx
  rwa [joinClaims_id x (claimsJoined_of_queue hj hc hq)] at hrow

/-! ### The lock -/

theorem lockKeyboard_system {s : State} {why : LockReason} (h : s.lock = .system why) : lockKeyboard s = s := by
  simp only [lockKeyboard, h]

theorem lockKeyboard_locks {s : State} (h : s.lock = .opened ∨ ∃ e, s.lock = .error e) :
    lockKeyboard s = { s with lock := .system .directive } := by
  rcases h with h | ⟨e, h⟩ <;> simp only [lockKeyboard, h]

theorem unlockKeyboard_opens {s : State} (h : ∀ e, s.lock ≠ .error e) :
    unlockKeyboard s = { s with lock := .opened } := by
  rw [unlockKeyboard_eq]
  cases hl : s.lock with
  | error e => exact absurd hl (h e)
  | opened | system why => rfl

/-! ### A directive's end -/

/-- A directive RUNNING has completed with code k and no range held: the composer has no work (R124, R174). -/
def directiveAnswered (k : Completion) (s : State) : State :=
  offer .directiveDone
    { s with
      report.intake.state := .completed, report.intake.completion := k
      composer := idleWith s.composer.cursor s.composer.insertMode s.composer }

section
variable {s : State} {d : Directive} {op : Word} (hr : s.heldRange = .empty) (hp : s.posting = none)
  (hw : s.composer.work = .directive d op) (hi : s.report.intake.state = .running)
include hr hp hw hi

theorem finishDirective_answered (k : Completion) : finishDirective k s = directiveAnswered k s :=
  finishDirective_free hr hp hw hi

theorem finishDirective_unlocked (hl : ∀ e, s.lock ≠ .error e) :
    finishDirective .done (unlockKeyboard s) = directiveAnswered .done { s with lock := .opened } := by
  rw [unlockKeyboard_opens hl]
  exact finishDirective_free (s := { s with lock := .opened }) hr hp hw hi

end

/-! ### UNLK -/

theorem runUnlock_refused {s : State} {e : ErrorCode} (h : s.lock = .error e) :
    runUnlock s = finishDirective .refusedState s := by
  simp only [runUnlock, h]

theorem runUnlock_eq {s : State} (h : ∀ e, s.lock ≠ .error e) :
    runUnlock s =
      if (takenOperand s).getLsbD 0 then resume (startClearPass s) else finishDirective .done (unlockKeyboard s) := by
  cases hl : s.lock with
  | error e => exact absurd hl (h e)
  | opened | system why => simp only [runUnlock, hl, runUnlock.unlock]

/-- The clear-modified pass posts CELL at the first mark (R146). -/
theorem resume_startClearPass_mark {s : State} {u : SetupBlock} {e : Entry} {es : List Entry}
    (hu : s.setup.active = some u) (ht : s.map.table = e :: es) :
    resume (startClearPass s) = awaiting (.cell e.pos) (.cellTaken e.pos) { s with composer.lastHandled := none } := by
  have hstep : startClearPass s = cellStep { s with composer.lastHandled := none } := if_neg (by simp [ht])
  have hfirst : cellStep { s with composer.lastHandled := none } =
      setTodo [.post (.cell e.pos), .call (.cellTaken e.pos)] { s with composer.lastHandled := none } := by
    simp [cellStep, ht]
  rw [hstep, hfirst]
  exact carryOn_post 15 _ _ hu

/-- The pass begun with no mark in the table: the flag of the unformatted screen is cleared (R146). -/
def unmarkedPass (s : State) : State :=
  { s with
    composer.lastHandled := none
    map.modified := if s.map.state = .current then false else s.map.modified }

theorem unmarkedPass_current {s : State} (h : s.map.state = .current) :
    unmarkedPass s = { s with composer.lastHandled := none, map.modified := false } := by
  unfold unmarkedPass
  rw [if_pos h]

theorem unmarkedPass_other {s : State} (h : s.map.state ≠ .current) :
    unmarkedPass s = { s with composer.lastHandled := none } := by
  unfold unmarkedPass
  rw [if_neg h]

theorem cellStep_unmarked {s : State} (h : s.map.table = []) : cellStep s = passEnded s := by
  unfold cellStep
  rw [h]
  rfl

/-- Such a pass is over at once. -/
theorem startClearPass_unmarked {s : State} (h : s.map.table = []) : startClearPass s = passEnded (unmarkedPass s) := by
  unfold startClearPass unmarkedPass
  dsimp only
  by_cases hm : s.map.state = .current
  · rw [if_pos ⟨hm, h⟩, if_pos hm]
  · rw [if_neg fun h' => hm h'.1, if_neg hm, cellStep_unmarked (s := { s with composer.lastHandled := none }) h]

/-- So UNLK with no mark to clear unlocks and completes in the event of its taking (R175). -/
theorem resume_startClearPass_unlk {s : State} {op : Word} (h : s.map.table = []) (hl : ∀ e, s.lock ≠ .error e)
    (hr : s.heldRange = .empty) (hp : s.posting = none) (hw : s.composer.work = .directive .unlk op)
    (hi : s.report.intake.state = .running) :
    resume (startClearPass s) = directiveAnswered .done { unmarkedPass s with lock := .opened } := by
  have hpass : passEnded (unmarkedPass s) = finishDirective .done (unlockKeyboard (unmarkedPass s)) :=
    passEnded_done (d := .unlk) hw
  rw [startClearPass_unmarked h, hpass, finishDirective_unlocked (s := unmarkedPass s) hr hp hw hi hl]
  exact carryOn_nil 16 rfl

/-! ### The statement -/

/-- Settles O45: LOCK by the lock it finds; UNLK refused, at once, or after the clear-modified pass has begun or ended. -/
theorem lockAndUnlockDirectives : Obligations.LockAndUnlockDirectives := by
  intro s hj hfree done
  obtain ⟨hr, hp, -⟩ := hfree
  have kept {k : Completion} {l : Lock} {d : Directive} (h : s.lock = l) :
      finishDirective k (takeDirective d s) = done k l s := by
    subst h
    exact finishDirective_answered (s := takeDirective d s) hr hp rfl rfl k
  refine ⟨fun hd => ⟨fun hl => ?_, fun why hl => ?_⟩, fun hd => ⟨fun e hl => ?_, fun hl => ?_⟩⟩
  · have hlock := lockKeyboard_locks (s := takeDirective .lock s) hl
    have hx : finishDirective .done (lockKeyboard (takeDirective .lock s)) = done .done (.system .directive) s := by
      rw [hlock]
      exact finishDirective_answered (s := { takeDirective .lock s with lock := .system .directive }) hr hp rfl rfl
        .done
    exact directiveRow_answers (f := fun y => finishDirective .done (lockKeyboard y)) hd hx hj rfl rfl
  · have hlock := lockKeyboard_system (s := takeDirective .lock s) hl
    exact directiveRow_answers (f := fun y => finishDirective .done (lockKeyboard y)) hd
      ((congrArg (finishDirective .done) hlock).trans (kept hl)) hj rfl rfl
  · have hrefused := runUnlock_refused (s := takeDirective .unlk s) hl
    exact directiveRow_answers (f := runUnlock) hd (hrefused.trans (kept hl)) hj rfl rfl
  · have hrun := runUnlock_eq (s := takeDirective .unlk s) hl
    have hpass (hop : s.report.intake.operand.getLsbD 0 = true) :
        runUnlock (takeDirective .unlk s) = resume (startClearPass (takeDirective .unlk s)) := hrun.trans (if_pos hop)
    have hover (ht : s.map.table = []) :=
      resume_startClearPass_unlk (s := takeDirective .unlk s) ht hl hr hp rfl rfl
    refine ⟨fun hop => ?_, fun u e es hop hu hm ht => ?_, fun hop ht => ⟨fun hm => ?_, fun hm => ?_⟩⟩
    · have hatOnce := finishDirective_unlocked (s := takeDirective .unlk s) hr hp rfl rfl hl
      have hx := hrun.trans ((if_neg (Bool.eq_false_iff.1 hop)).trans hatOnce)
      exact directiveRow_answers (f := runUnlock) hd hx hj rfl rfl
    · exact directiveRow_answers (f := runUnlock) hd ((hpass hop).trans (resume_startClearPass_mark hu ht)) hj rfl rfl
    · have hx := (hpass hop).trans (hover ht)
      rw [unmarkedPass_current (s := takeDirective .unlk s) hm] at hx
      exact directiveRow_answers (f := runUnlock) hd hx hj rfl rfl
    · have hx := (hpass hop).trans (hover ht)
      rw [unmarkedPass_other (s := takeDirective .unlk s) (fun h => nomatch hm.symm.trans h)] at hx
      exact directiveRow_answers (f := runUnlock) hd hx hj rfl rfl

end Sys2Proof.Machine
end

section
/-! FLSH empties the queue, and every claim that waited joins (R108, R109, R113, R181). -/

namespace Sys2Proof.Machine

/-! ### The slots freed -/

theorem freeTokens_frame (ts : List Token) (s : State) :
    freeTokens ts s = { s with slots := (freeTokens ts s).slots } := by
  induction ts generalizing s with
  | nil => rfl
  | cons t ts ih =>
    cases t with
    | key c => exact ih s
    | scan i => exact ih (freeSlot i s)

theorem getSlot_freeTokenSlot (t : Token) (s : State) (i : Fin 4) :
    getSlot (freeTokenSlot t s).slots i =
      if t = .scan i then { getSlot s.slots i with state := .free, stamp := none } else getSlot s.slots i := by
  cases t with
  | key c => rfl
  | scan j =>
    show getSlot (setSlot s.slots j _) i = _
    rw [getSlot_setSlot]
    by_cases h : i = j
    · subst h; simp
    · rw [if_neg h, if_neg (by simpa using Ne.symm h)]

theorem getSlot_freeTokens (ts : List Token) (s : State) (i : Fin 4) :
    getSlot (freeTokens ts s).slots i =
      if Token.scan i ∈ ts then { getSlot s.slots i with state := .free, stamp := none } else getSlot s.slots i := by
  induction ts generalizing s with
  | nil => simp [freeTokens]
  | cons t ts ih =>
    show getSlot (freeTokens ts (freeTokenSlot t s)).slots i = _
    rw [ih, getSlot_freeTokenSlot]
    by_cases ht : t = .scan i
    · subst ht; simp
    · by_cases hm : Token.scan i ∈ ts <;> simp [ht, Ne.symm ht, hm]

/-! ### Every claim joins -/

/-- The token a claim brings into the queue: the held code's, or its scan's (R109). -/
def claimToken (held : Option HeldCode) (c : Claim) : Option Token :=
  match c.who with
  | .held => held.map (fun h => Token.key h.code)
  | .slot i => some (.scan i)

/-- In t all the claims cs have joined the queue of s, in their order (R109). -/
structure AllJoined (cs : List Claim) (s t : State) : Prop where
  queue : t.queue = s.queue ++ cs.filterMap (claimToken s.holding)
  holding : t.holding = none
  claimOrder : t.claimOrder = []
  slots : ∀ i, getSlot t.slots i =
    if i ∈ cs.filterMap claimSlot then { getSlot s.slots i with state := .queued } else getSlot s.slots i

/-- The status pass is no part of it. -/
theorem AllJoined.of_status {cs : List Claim} {s x t : State} (hx : AllJoined cs s x)
    (h : besidesStatus t = besidesStatus x) : AllJoined cs s t := by
  have hq : t.queue = x.queue := by have e := congrArg State.queue h; exact e
  have hh : t.holding = x.holding := by have e := congrArg State.holding h; exact e
  have hc : t.claimOrder = x.claimOrder := by have e := congrArg State.claimOrder h; exact e
  exact ⟨hq.trans hx.queue, hh.trans hx.holding, hc.trans hx.claimOrder, fun i => slots_besides h ▸ hx.slots i⟩

/-- Where no claim is the held code's, the tokens do not depend on the holding stage. -/
theorem claimTokens_of_slots {cs : List Claim} (h : ∀ c ∈ cs, c.who ≠ .held) (a b : Option HeldCode) :
    cs.filterMap (claimToken a) = cs.filterMap (claimToken b) :=
  List.filterMap_congr fun c hc => by
    have hw := h c hc
    unfold claimToken
    cases hc' : c.who with
    | held => exact absurd hc' hw
    | slot i => rfl

theorem heldClaims_eq_zero {s : State} : heldClaims s = 0 ↔ ∀ c ∈ s.claimOrder, c.who ≠ .held := by
  simp [heldClaims]

/-- With a place for every claim, and a code in the holding stage exactly when one claim is its, every claim joins. -/
theorem joinFrom_all (cs : List Claim) (s : State) (hq : s.queue.length + cs.length ≤ 32)
    (hh : heldClaims { s with claimOrder := cs } = if s.holding.isSome then 1 else 0) :
    AllJoined cs s (joinFrom cs s) := by
  induction cs generalizing s with
  | nil =>
    have hn : s.holding = none := by
      cases hd : s.holding with
      | none => rfl
      | some d => rw [hd] at hh; exact absurd hh (by simp [heldClaims])
    exact ⟨by simp [joinFrom], hn, rfl, fun i => by simp [joinFrom]⟩
  | cons c cs ih =>
    have hroom : s.queue.length < Config.queueSize := by
      simp only [List.length_cons] at hq
      simp only [Config.queueSize]
      omega
    have hcount := heldClaims_of_cons (s := { s with claimOrder := c :: cs }) (t := { s with claimOrder := cs }) rfl
    rw [hh] at hcount
    have hlen (k : Token) : (s.queue ++ [k]).length + cs.length ≤ 32 := by
      simp only [List.length_append, List.length_cons, List.length_nil] at hq ⊢
      omega
    rw [joinFrom, if_pos hroom]
    obtain ⟨who, fresh⟩ := c
    cases who with
    | held =>
      cases hd : s.holding with
      | none => simp [hd] at hcount
      | some d =>
        have hzero : heldClaims { s with claimOrder := cs } = 0 := by simpa [hd] using hcount
        have hj : joinClaim ⟨.held, fresh⟩ s = { s with queue := s.queue ++ [.key d.code], holding := none } := by
          simp [joinClaim, hd]
        obtain ⟨jq, jh, jc, js⟩ := ih { s with queue := s.queue ++ [.key d.code], holding := none } (hlen _) hzero
        rw [hj]
        refine ⟨?_, jh, jc, js⟩
        rw [jq, claimTokens_of_slots (heldClaims_eq_zero.1 hzero) none s.holding]
        simp [claimToken, hd]
    | slot j =>
      have hleft : heldClaims { s with claimOrder := cs } = if s.holding.isSome then 1 else 0 := by
        simpa using hcount.symm
      obtain ⟨jq, jh, jc, js⟩ := ih (joinClaim ⟨.slot j, fresh⟩ s) (hlen _) hleft
      refine ⟨jq.trans ?_, jh, jc, fun i => ?_⟩
      · simp [joinClaim, markSlot, claimToken]
      · rw [js i]
        show (if _ then { getSlot (setSlot s.slots j _) i with state := _ } else getSlot (setSlot s.slots j _) i) = _
        rw [getSlot_setSlot]
        by_cases h : i = j
        · subst h; simp [claimSlot]
        · simp [claimSlot, h]

/-! ### The statement -/

/-- The state but for the causes, in which only the queue, the holding stage, the slots and the claim order differ. -/
theorem besidesCauses_of_queue {s t : State} (h : besidesQueue t = besidesQueue s) :
    besidesCauses t =
      besidesCauses
        { s with queue := t.queue, holding := t.holding, slots := t.slots, claimOrder := t.claimOrder } :=
  congrArg
    (fun y => besidesCauses
      { y with queue := t.queue, holding := t.holding, slots := t.slots, claimOrder := t.claimOrder }) h

/-- The queue emptied and the slots of its tokens freed, FLSH completes (R113, R181). -/
theorem flushQueue_eq {s : State} {d : Directive} {op : Word} (hr : s.heldRange = .empty) (hp : s.posting = none)
    (hw : s.composer.work = .directive d op) (hi : s.report.intake.state = .running) :
    flushQueue s = directiveAnswered .done { s with slots := (freeTokens s.queue s).slots, queue := [] } := by
  unfold flushQueue
  rw [freeTokens_frame]
  exact finishDirective_answered (s := { s with slots := (freeTokens s.queue s).slots, queue := [] }) hr hp hw hi .done

/-- Settles O49: the queue emptied, then every claim that waited joined at the end of the event. -/
theorem flushEmptiesQueue : Obligations.FlushEmptiesQueue := by
  intro s hfree hd hlen hheld
  obtain ⟨hr, hp, -⟩ := hfree
  let y : State := takeDirective .flsh s
  let x : State := directiveAnswered .done { y with slots := (freeTokens y.queue y).slots, queue := [] }
  have hx : flushQueue y = x := flushQueue_eq (s := y) hr hp rfl rfl
  obtain ⟨t, ht, hb⟩ := directiveRow_joins (f := flushQueue) hd hx
  have hroom : x.queue.length + s.claimOrder.length ≤ 32 := (Nat.zero_add _).trans_le hlen
  have hjoin : AllJoined s.claimOrder x t := (joinFrom_all s.claimOrder x hroom hheld).of_status hb
  have hrest : besidesQueue t = besidesQueue x := (besidesQueue_of_status hb).trans (besidesQueue_joinFrom _ x)
  refine ⟨t, ht, congrArg (fun z => z.report.pending) hrest, congrArg (fun z => z.report.seen) hrest,
    ?_, ?_, fun i => ?_⟩
  · rw [besidesCauses_of_queue hrest, hjoin.holding, hjoin.claimOrder]
    rfl
  · rw [hjoin.queue]
    rfl
  · have hfreed : getSlot x.slots i = _ := getSlot_freeTokens s.queue y i
    rw [hjoin.slots i, hfreed, ← readyOrder_eq]
    rfl

end Sys2Proof.Machine
end

section
/-! The cursor below N (R30, R126): every operation of the composer leaves it where it is or computes it mod N. -/

namespace Sys2Proof.Machine

/-- The cursor and the active setup as they were. -/
theorem inside_of_same {s t : State} (h : cursorInside s) (ha : t.setup.active = s.setup.active)
    (hc : t.composer.cursor = s.composer.cursor) : cursorInside t := by
  intro u hu
  rw [hc]
  exact h u (ha ▸ hu)

section
variable {s : State} (h : cursorInside s)
include h

/-- A cursor computed mod N lies below it: N is not 0, since a cursor lies below it already. -/
theorem inside_setCursor (x : Nat) : cursorInside (setCursor x s) := by
  intro u hu
  have hN : s.formN = formSize u := by
    have hu : s.setup.active = some u := hu
    simp [State.formN, hu]
  show x % s.formN < formSize u
  rw [hN]
  exact Nat.mod_lt _ (Nat.zero_lt_of_lt (h u hu))

/-! ### The transfer in hand, and the end of a work -/

theorem inside_takeIn (t : Transfer) : cursorInside (takeIn t s) := by
  obtain ⟨i, a, r, b, e, -⟩ := takeIn_form t s
  rw [e]; exact h

theorem inside_decideAnew : cursorInside (decideAnew s) := by
  obtain ⟨i, a, r, b, e, -⟩ := decideAnew_form s
  rw [e]; exact h

theorem inside_decideHeld : cursorInside (decideHeld s) := by
  obtain ⟨i, a, r, b, e⟩ := decideHeld_form s
  rw [e]; exact h

theorem inside_takePosting (r : HeldRange) : cursorInside (takePosting r s) :=
  inside_decideAnew (s := { s with heldRange := r, posting := none }) h

theorem inside_releaseRange : cursorInside (releaseRange s) := by
  unfold releaseRange; repeat' split
  · exact h
  · exact h
  · exact inside_takePosting (s := { s with composer.posted := .empty }) h _

theorem inside_takeOwedEmpty : cursorInside (takeOwedEmpty s) := by
  unfold takeOwedEmpty; split
  · exact inside_takePosting h _
  · exact h

theorem inside_raiseError (c : ErrorCode) : cursorInside (raiseError c s) := by
  unfold raiseError; split <;> exact h

theorem inside_unlockKeyboard : cursorInside (unlockKeyboard s) := by
  unfold unlockKeyboard; split <;> exact h

theorem inside_lockKeyboard : cursorInside (lockKeyboard s) := by
  unfold lockKeyboard; split <;> exact h

theorem inside_freeTokenSlot (t : Token) : cursorInside (freeTokenSlot t s) := by
  cases t <;> exact h

theorem inside_completeDirective (c : Completion) : cursorInside (completeDirective c s) := by
  unfold completeDirective; repeat' split
  all_goals exact h

theorem inside_endWork : cursorInside (endWork s) := by
  have ended {y : State} (hy : cursorInside y) : cursorInside (idleComposer (releaseRange y)) := inside_releaseRange hy
  unfold endWork; split
  · exact ended (inside_freeTokenSlot h _)
  all_goals exact ended h

theorem inside_refuse (c : ErrorCode) : cursorInside (refuse c s) := inside_endWork (inside_raiseError h c)

/-- A refusal with the cursor moved. -/
theorem inside_refuseAt (x : Nat) (c : ErrorCode) : cursorInside (endWork (setCursor x (raiseError c s))) :=
  inside_endWork (inside_setCursor (inside_raiseError h c) x)

theorem inside_finishDirective (c : Completion) : cursorInside (finishDirective c s) :=
  inside_endWork (inside_completeDirective h c)

theorem inside_moved (x : Nat) : cursorInside (endWork (setCursor x s)) := inside_endWork (inside_setCursor h x)

/-! ### Sends, walks and the return list -/

theorem inside_openList : cursorInside (openList s) := by
  have held {y : State} (hy : cursorInside y) : cursorInside (holdForGather y) := by
    unfold holdForGather; repeat' split
    all_goals exact hy
  exact held (y := { s with composer.listPhase := .opening, composer.used := 5, composer.count := 0 }) h

theorem inside_finishSend : cursorInside (finishSend s) := by
  unfold finishSend; split <;> exact inside_endWork h

theorem inside_lockAndList : cursorInside (lockAndList s) := by
  have hl : cursorInside (insertOff (sendLock s)) := by
    unfold sendLock; split <;> exact h
  unfold lockAndList; dsimp only; split
  · exact inside_openList hl
  · exact inside_finishSend hl

theorem inside_listDone (l : ListState) : cursorInside (listDone l s) := by
  have hc : cursorInside { s with composer.listPhase := .closed } := h
  unfold listDone; dsimp only; split
  · exact inside_decideHeld (inside_finishDirective hc _)
  · exact inside_decideHeld (inside_finishSend hc)
  · exact inside_decideHeld hc
  · exact inside_decideHeld hc

theorem inside_walkLimit (w : Walk) : cursorInside (walkLimit w s) := by
  cases w with
  | validate => exact inside_refuse h _
  | gather => exact h

theorem inside_walkEnd (w : Walk) : cursorInside (walkEnd w s) := by
  cases w with
  | validate => exact inside_lockAndList h
  | gather => exact h

theorem inside_selectStep (w : Walk) : cursorInside (selectStep w s) := by
  unfold selectStep; split
  · exact inside_walkLimit h w
  · exact inside_walkEnd h w
  · exact h

theorem inside_startWalk (w : Walk) : cursorInside (startWalk w s) :=
  inside_selectStep (s := { s with composer.lastHandled := none }) h w

theorem inside_nextStep (w : Walk) : cursorInside (nextStep w s) := by
  unfold nextStep; split
  · exact inside_walkEnd h w
  next m _ => exact inside_selectStep (s := { s with composer.lastHandled := some m }) h w

theorem inside_validateField : cursorInside (validateField s) := by
  unfold validateField; dsimp only; repeat' split
  · exact inside_nextStep h _
  · exact inside_refuseAt h _ _
  · exact h
  · exact inside_nextStep h _

theorem inside_validationJudged : cursorInside (validationJudged s) := by
  unfold validationJudged; dsimp only; repeat' split
  · exact inside_refuseAt h _ _
  · exact inside_refuseAt h _ _
  · exact inside_nextStep h _

theorem inside_gatherField : cursorInside (gatherField s) := by
  unfold gatherField; split
  · exact h
  · exact inside_nextStep h _

theorem inside_gatherJudged : cursorInside (gatherJudged s) := by
  unfold gatherJudged; dsimp only; split <;> exact h

theorem inside_madeStep (w : Walk) (f : Field) : cursorInside (madeStep w f s) := by
  have hm : cursorInside { s with composer.field := some f, composer.workingTable := some s.map.table } := h
  cases w with
  | validate => exact inside_validateField hm
  | gather => exact inside_gatherField hm

theorem inside_stepTaken (w : Walk) (m : Option Nat) (l : Nat) : cursorInside (stepTaken w m l s) := by
  unfold stepTaken; repeat' split
  · exact inside_walkLimit h w
  · exact h
  · exact inside_madeStep h w _
  · exact h

theorem inside_stepUnderWhole (w : Walk) : cursorInside (stepUnderWhole w s) := by
  unfold stepUnderWhole; split
  · exact inside_walkLimit h w
  · exact inside_walkEnd h w
  · exact h

theorem inside_listOpened : cursorInside (listOpened s) := by
  unfold listOpened; repeat' split
  · exact h
  · exact h
  · exact inside_startWalk (s := { s with composer.listPhase := .walking }) h _

/-! ### The passes -/

theorem inside_erasePass : cursorInside (erasePass s) := by
  have hr : cursorInside (erasePass.eraseRefused s) := by
    unfold erasePass.eraseRefused; split
    · exact inside_finishDirective h _
    · exact inside_refuse h _
    · exact h
    · exact h
  unfold erasePass; split
  · exact h
  all_goals exact hr

theorem inside_eraseEnded : cursorInside (eraseEnded s) := by
  have hm : cursorInside { s with map.modified := s.map.modified && !s.map.table.isEmpty } := h
  have home (x : Nat) := inside_setCursor hm x
  unfold eraseEnded; dsimp only; repeat' split
  · exact inside_finishDirective (home _) _
  · exact inside_lockAndList (inside_releaseRange (home _))
  · exact inside_endWork (home _)
  · exact inside_endWork (home _)
  · exact home _
  · exact home _

theorem inside_passEnded : cursorInside (passEnded s) := by
  unfold passEnded; split
  · exact inside_finishDirective (inside_unlockKeyboard h) _
  · exact inside_finishDirective h _

theorem inside_cellStep : cursorInside (cellStep s) := by
  unfold cellStep; split
  · exact h
  · exact inside_passEnded h

theorem inside_startClearPass : cursorInside (startClearPass s) := by
  unfold startClearPass; dsimp only; split
  · exact inside_passEnded (s := { s with composer.lastHandled := none, map.modified := false }) h
  · exact inside_cellStep (s := { s with composer.lastHandled := none }) h

theorem inside_cellHeld (p : Nat) : cursorInside (cellHeld p s) := by
  have hn : cursorInside (cellStep { s with composer.lastHandled := some p }) :=
    inside_cellStep (s := { s with composer.lastHandled := some p }) h
  unfold cellHeld; repeat' split
  · exact h
  · exact hn
  · exact hn

/-! ### Tokens on the held field -/

theorem inside_takeHold : cursorInside (takeHold s) := by
  unfold takeHold; split
  · exact inside_refuse h _
  · exact h

theorem inside_exitComputed (k : Option Nat) (m : Bool) (n : ExitNext) : cursorInside (exitComputed k m n s) := by
  unfold exitComputed; dsimp only; split
  · exact inside_refuseAt h _ _
  · exact h

theorem inside_exitSucceeded (n : ExitNext) : cursorInside (exitSucceeded n s) := by
  cases n with
  | advance | move => exact inside_moved h _
  | field => exact h
  | send => exact inside_startWalk (inside_releaseRange h) _

theorem inside_insertJudged (c : Byte) : cursorInside (insertJudged c s) := by
  unfold insertJudged; dsimp only; split
  · exact inside_refuse h _
  · exact h

theorem inside_markModified : cursorInside (markModified s) := by
  unfold markModified; repeat' split
  all_goals exact h

/-- The cursor advances behind the character, also where auto-advance goes on from there (R134). -/
theorem inside_characterDone : cursorInside (characterDone s) := by
  unfold characterDone; dsimp only; split
  · exact inside_setCursor h _
  · exact inside_moved h _

theorem inside_heldCharacter (c : Byte) : cursorInside (heldCharacter c s) := by
  unfold heldCharacter; dsimp only; repeat' split
  · exact inside_refuse h _
  · exact inside_refuse h _
  · exact h
  · exact h

theorem inside_heldDelete : cursorInside (heldDelete s) := by
  unfold heldDelete; dsimp only; split
  · exact inside_refuse h _
  · exact h

theorem inside_heldErase : cursorInside (heldErase s) := by
  unfold heldErase; dsimp only; split
  · exact inside_refuse h _
  · exact h

theorem inside_heldFieldExit : cursorInside (heldFieldExit s) := by
  unfold heldFieldExit; dsimp only; split
  · exact inside_refuse h _
  · exact h

theorem inside_heldFieldMinus : cursorInside (heldFieldMinus s) := by
  unfold heldFieldMinus; dsimp only; repeat' split
  · exact inside_refuse h _
  · exact inside_refuse h _
  · exact h

theorem inside_heldMove (c : Byte) : cursorInside (heldMove c s) := by
  unfold heldMove; dsimp only; split
  · exact h
  · exact inside_moved h _

theorem inside_heldSend : cursorInside (heldSend s) := by
  unfold heldSend; split
  · exact h
  · exact inside_startWalk (inside_releaseRange h) _

theorem inside_heldScan (i : Fin 4) : cursorInside (heldScan i s) := by
  unfold heldScan rejectScan; dsimp only; repeat' split
  · exact inside_endWork (s := toneTrigger (count .scanDrop (offer .scanDrop s))) h
  all_goals exact h

theorem inside_scanComputed : cursorInside (scanComputed s) := by
  unfold scanComputed; dsimp only; split <;> exact h

theorem inside_heldWork : cursorInside (heldWork s) := by
  unfold heldWork; repeat' split
  · exact inside_heldScan h _
  · exact inside_heldCharacter h _
  · exact inside_heldDelete h
  · exact inside_heldErase h
  · exact inside_heldFieldExit h
  · exact inside_heldFieldMinus h
  · exact inside_heldSend h
  · exact inside_heldMove h _
  all_goals exact h

theorem inside_holdTaken (m : Option Nat) (l : Nat) (w : Bool) : cursorInside (holdTaken m l w s) := by
  unfold holdTaken; repeat' split
  · exact inside_refuse h _
  next f _ _ => exact inside_heldWork (s := holdOn f s) h
  · exact h

theorem inside_holdUnderWhole : cursorInside (holdUnderWhole s) := by
  unfold holdUnderWhole; split
  · exact inside_refuse h _
  · exact h

/-! ### The composer at its work -/

theorem inside_runCont (k : Cont) : cursorInside (runCont k s) := by
  cases k with
  | holdFirst => exact inside_holdTaken h _ _ _
  | holdWhole => exact inside_holdUnderWhole h
  | holdNarrow => exact inside_heldWork h
  | insertTested => exact inside_insertJudged h _
  | setModified => exact inside_markModified h
  | charWritten => exact inside_characterDone h
  | exitRead => exact inside_exitComputed h _ _ _
  | exitDone => exact inside_exitSucceeded h _
  | moveTo => exact inside_moved h _
  | finish => exact inside_endWork h
  | scanRead => exact inside_scanComputed h
  | eraseTaken => exact inside_erasePass h
  | eraseDone => exact inside_eraseEnded h
  | stepFirst => exact inside_stepTaken h _ _ _
  | stepWhole => exact inside_stepUnderWhole h _
  | stepMade => exact inside_madeStep h _ _
  | validationRead => exact inside_validationJudged h
  | listOpened => exact inside_listOpened h
  | gatherRead => exact inside_gatherJudged h
  | entryWritten size => exact inside_nextStep (s := countEntry size s) h _
  | listClosed => exact inside_listDone h _
  | cellTaken => exact inside_cellHeld h _
  | cellDone p => exact inside_cellStep (s := { s with composer.lastHandled := some p }) h

theorem inside_carryOn (n : Nat) : cursorInside (carryOn n s) := by
  induction n generalizing s with
  | zero => exact h
  | succ n ih =>
    unfold carryOn
    split
    · exact h
    next k rest _ => exact ih (inside_runCont (s := setTodo rest s) h k)
    next op _ _ _ =>
      split
      · cases op <;> exact h
      · exact h

theorem inside_resume : cursorInside (resume s) := inside_carryOn h 16

end

end Sys2Proof.Machine
end

section
/-! Every step keeps the cursor below the active N, and the active setup validated (R126, R196, R198). -/

namespace Sys2Proof.Machine

/-! ### The end of an event -/

/-- An event keeps the cursor inside when its effect does. -/
theorem inside_event {can : Bool} {f : State → State} {s t : State} (hs : cursorInside s) (hf : cursorInside (f s))
    (h : event can f s = .next t) : cursorInside t := by
  cases can with
  | false => cases h; exact hs
  | true =>
    cases h
    exact inside_of_same hf (congrArg (·.active) (settle_setup s (f s)))
      (congrArg (·.cursor) (settle_composer s (f s)))

section
variable {s : State} (h : cursorInside s)
include h

/-! ### The map -/

theorem inside_rebuildEnded : cursorInside (rebuildEnded s) := by
  have hp : cursorInside (pauseLeft s) := by
    unfold pauseLeft; split
    · exact inside_completeDirective h .done
    all_goals exact h
  exact inside_decideHeld hp

theorem inside_rebuildLimit : cursorInside (rebuildLimit s) := inside_rebuildEnded (s := scanLimit s) h

theorem inside_upkeep (p : Nat) (w : Word) : cursorInside (upkeep p w s) := by
  unfold upkeep; repeat' split
  · exact h
  · exact h
  next m _ =>
    obtain ⟨i, e⟩ := followWrite_hand p w m s
    rw [e]; exact h
  · exact h
  · exact h
  · exact inside_rebuildLimit h
  · exact h

theorem inside_learnTransfer (t : PortTransfer) : cursorInside (learnTransfer t s) := by
  rcases learnTransfer_cases t s with ⟨e, -⟩ | ⟨u, p, -, -, e⟩ <;> rw [e]
  · exact h
  · exact inside_upkeep h p _

theorem inside_startRebuild : cursorInside (startRebuild s) := by
  rcases startRebuild_cases s with e | ⟨u, -, e⟩ <;> rw [e] <;> exact h

theorem inside_scanWord (w : Word) : cursorInside (scanWord w s) := by
  have advanced {y : State} (hy : cursorInside y) : cursorInside (scanAdvanced y) := by
    unfold scanAdvanced claimScan; split
    · exact inside_rebuildEnded (s := { y with
        map.state := .current, map.modified := y.map.modified && y.map.table.isEmpty }) hy
    · split <;> exact hy
  unfold scanWord; repeat' split
  · exact inside_rebuildLimit h
  all_goals exact advanced h

theorem inside_scanReadDone : cursorInside (scanReadDone s) := by
  unfold scanReadDone; split
  · exact h
  next t _ =>
    dsimp only; repeat' split
    · exact h
    · exact inside_scanWord (s := portDone t s) h _
    · exact h

/-! ### The transfer path -/

theorem inside_portGrant : cursorInside (portGrant s) := by
  unfold portGrant grantInternal; repeat' split
  all_goals exact h

theorem inside_reportWrite (i : Fin 32) (v : Word) : cursorInside (reportWrite i v s) := by
  unfold reportWrite directiveWrite directiveWrite.acceptDirective reportWrite.clearIf
  dsimp only; repeat' split
  all_goals exact h

theorem inside_watchApply (a : WordAddr) (l : Lanes) (v : Word) : cursorInside (watchApply a l v s) := by
  unfold watchApply requestApply requestApply.ask; repeat' split
  all_goals exact h

theorem inside_tellBlocks (i : Option (Fin 32)) (t : PortTransfer) : cursorInside (tellBlocks i t s) := by
  have hl := inside_learnTransfer h t
  unfold tellBlocks
  unfold learnTransfer at hl
  cases hop : t.op with
  | read => exact h
  | write l v =>
    rw [hop] at hl
    refine inside_watchApply ?_ _ _ _
    cases i with
    | none => exact hl
    | some i => exact inside_reportWrite hl i v

theorem inside_processorDone (i : Option (Fin 32)) (m o : Bool) (t : PortTransfer) :
    cursorInside (processorDone i m o t s) := by
  have ready (a : Answer) : cursorInside (giveReady o a (portDone t s)) := by
    unfold giveReady leaveHand; repeat' split
    all_goals exact h
  exact inside_takeOwedEmpty (inside_tellBlocks (ready _) i t)

theorem inside_transferDone : cursorInside (transferDone s) := by
  unfold transferDone; repeat' split
  · exact h
  · exact h
  · exact inside_processorDone h _ _ _ _
  · exact inside_processorDone h _ _ _ _
  all_goals exact h

theorem inside_mergeReadDone : cursorInside (mergeReadDone s) := by
  unfold mergeReadDone; repeat' split
  all_goals exact h

theorem inside_postingTaken : cursorInside (postingTaken s) := by
  unfold postingTaken; split
  · exact h
  next r _ =>
    have hp := inside_takePosting h r
    dsimp only; split
    next rest _ => exact inside_resume (s := setTodo rest (takePosting r s)) hp
    · exact hp

theorem inside_wordWriteRow {i : Option (Fin 32)} {a : WordAddr} {cls : AccessClass} {v : Word} {t : State}
    (ht : wordWriteRow i a cls v s = .next t) : cursorInside t := by
  unfold wordWriteRow at ht
  dsimp only at ht
  split at ht
  · exact inside_event h (inside_transferDone h) ht
  · exact inside_event (f := writeThrough _) h (inside_transferDone (inside_portGrant (inside_takeIn h _))) ht

theorem inside_reportWriteRow {i : Fin 32} {cls : AccessClass} {v : Word} {t : State}
    (ht : reportWriteRow i cls v s = .next t) : cursorInside t := by
  unfold reportWriteRow at ht
  split at ht
  · cases ht; exact h
  · exact inside_wordWriteRow h ht

theorem inside_readReport {i : Fin 32} {cls : AccessClass} {l : Lanes} {t : State}
    (ht : readReport i cls l s = .next t) : cursorInside t := by
  unfold readReport at ht
  split at ht
  · cases ht; exact h
  · exact inside_event h (inside_takeIn h _) ht

theorem inside_composerDone : cursorInside (composerDone s) := by
  unfold composerDone; split
  · exact h
  next t _ =>
    have hl := inside_learnTransfer (s := portDone t s) h t
    dsimp only; repeat' split
    · exact h
    · exact hl
    next op rest _ =>
      have done (w : Word) : cursorInside (opDone op rest w (learnTransfer t (portDone t s))) := by
        unfold opDone; repeat' split
        all_goals exact hl
      have counted {y : State} (hy : cursorInside y) : cursorInside (abortList (countIfWhole y)) := by
        unfold countIfWhole; split <;> exact hy
      unfold carryComposer; split
      · exact inside_resume (counted (done _))
      · exact inside_resume (done _)

theorem inside_statusDone : cursorInside (statusDone s) := by
  unfold statusDone; split
  · exact h
  · dsimp only; repeat' split
    · exact h
    · exact h
    · rw [claimStatus_eq]; exact h

/-! ### The setup unit (R125, R198) -/

omit h in
/-- At a switch the cursor is kept below the new N, or set to 0: an accepted block has cells (R125, R196). -/
theorem inside_switchEvent {k : BitVec 4} {u : SetupBlock} (hv : validate k u = 0x0001#16) :
    cursorInside (switchEvent u s) := by
  have kept : keptCursor u s.composer.cursor < formSize u := by
    unfold keptCursor; split
    · assumption
    · exact valid_formSize k u hv
  have switched : cursorInside (switchValues u s) := by
    obtain ⟨f, p, e⟩ := switchValues_format u s
    rw [e]
    intro v hu
    cases hu
    exact kept
  exact inside_decideAnew (inside_startRebuild switched)

theorem inside_setupReadDone : cursorInside (setupReadDone s) := by
  have judged {y : State} (hy : cursorInside y) : cursorInside (judgeSetup y) := by
    unfold judgeSetup; dsimp only; split
    next hv => exact inside_switchEvent hv
    · exact hy
  unfold setupReadDone; split
  · exact h
  · dsimp only; repeat' split
    · exact h
    · exact h
    · exact judged h

theorem inside_resultWordDone : cursorInside (resultWordDone s) := by
  unfold resultWordDone; dsimp only; repeat' split
  all_goals exact h

theorem inside_resultDone : cursorInside (resultDone s) := by
  unfold resultDone applyRefused leavePause; dsimp only; repeat' split
  all_goals exact h

/-! ### The lines, the timer and the queue -/

theorem inside_endScan (w : Word) : cursorInside (endScan w s) := by
  unfold endScan judgeScan; dsimp only; repeat' split
  all_goals exact h

theorem inside_gapExpiry : cursorInside (gapExpiry s) := inside_endScan (s := { s with timer.gap := none }) h _

theorem inside_lineError (fr : FrameResult) : cursorInside (lineError fr s) := by
  unfold lineError; split <;> exact h

theorem inside_scannerResult (fr : FrameResult) : cursorInside (scannerResult fr s) := by
  have collected {y : State} (hy : cursorInside y) : cursorInside (collectFrame fr y) := by
    have ended : cursorInside (terminateScan y) := inside_gapExpiry hy
    unfold collectFrame startScan; repeat' split
    · exact hy
    · exact hy
    · exact hy
    · exact ended
    · exact hy
    · exact ended
    · exact hy
  exact collected (inside_lineError h fr)

theorem inside_keyboardResult (fr : FrameResult) : cursorInside (keyboardResult fr s) := by
  unfold keyboardResult; repeat' split
  · exact inside_lineError h fr
  all_goals exact h

theorem inside_takeFormat : cursorInside (takeFormat s) := by
  unfold takeFormat; split <;> exact h

theorem inside_formatAtIdle (b : RxState) : cursorInside (formatAtIdle b s) := by
  unfold formatAtIdle; split
  · exact inside_takeFormat h
  · exact h

theorem inside_scannerCompletes (fr : FrameResult) : cursorInside (scannerCompletes fr s) := by
  rw [scannerCompletes_eq]
  exact inside_scannerResult h fr

theorem inside_lineSampled (l : Line) (m : Bool) : cursorInside (lineSampled l m s) := by
  cases l with
  | kbd =>
    show cursorInside (keyboardSample m s)
    unfold keyboardSample; dsimp only; split
    · exact inside_keyboardResult (by exact h) _
    · exact h
  | scn =>
    have idle (r : Receiver) := inside_formatAtIdle (s := { s with scanner := r }) h s.scanner.state
    show cursorInside (scannerSample m s)
    unfold scannerSample; dsimp only; split
    · exact inside_scannerResult (idle _) _
    · exact idle _

theorem inside_tick : cursorInside (tick s) := by
  have gap {y : State} (hy : cursorInside y) : cursorInside (gapIfDue y) := by
    unfold gapIfDue; split
    · exact inside_gapExpiry hy
    · exact hy
  have holdoff {y : State} (hy : cursorInside y) : cursorInside (holdoffIfDue y) := by
    unfold holdoffIfDue; split <;> exact hy
  have tone : cursorInside (toneIfDue s) := by
    unfold toneIfDue; split <;> exact h
  have expiries {y : State} (hy : cursorInside y) : cursorInside (scanExpiries y) := by
    have drawn : cursorInside { y with freeIndex := y.freeIndex + 1 } := hy
    unfold scanExpiries; dsimp only; repeat' split
    · exact gap (holdoff drawn)
    · exact holdoff (gap drawn)
    · exact holdoff (gap hy)
  exact expiries tone

theorem inside_headVerdict : cursorInside (headVerdict s) := by
  have taken (t : Token) (rest : List Token) : cursorInside (takeToken t rest s) := by
    have slot {y : State} (hy : cursorInside y) : cursorInside (takeSlot t y) := by cases t <;> exact hy
    have noted {y : State} (hy : cursorInside y) : cursorInside (noteSend t y) := by
      unfold noteSend; repeat' split
      all_goals exact hy
    unfold takeToken; dsimp only; split
    · exact inside_refuse (noted (slot (by exact h))) _
    · exact noted (slot (by exact h))
  have discarded (t : Token) (rest : List Token) : cursorInside (discardToken t rest s) :=
    inside_freeTokenSlot (s := { s with queue := rest }) h t
  unfold headVerdict; repeat' split
  · exact h
  · exact taken _ _
  · exact h
  · exact discarded _ _
  · exact h
  · exact discarded _ _

/-! ### The rows of tokens and directives -/

theorem inside_tokenRow {p : Token → Bool} {f : State → State} {t : State}
    (hf : ∀ {y}, cursorInside y → cursorInside (f y)) (ht : tokenRow p f s = .next t) : cursorInside t :=
  inside_event (f := fun s => f { s with composer.begun := true }) h (hf h) ht

theorem inside_directiveRow {d : Directive} {f : State → State} {t : State}
    (hf : ∀ {y}, cursorInside y → cursorInside (f y)) (ht : directiveRow d f s = .next t) : cursorInside t :=
  inside_event (f := fun s => f (takeDirective d s)) h (hf h) ht

theorem inside_beginMove (c : Byte) : cursorInside (beginMove c s) := by
  unfold beginMove; dsimp only; split
  · exact inside_resume (inside_takeHold h)
  · exact inside_moved h _

theorem inside_backspace : cursorInside (backspace s) := by
  unfold backspace; repeat' split
  · exact inside_moved h _
  · exact inside_endWork h
  · exact inside_endWork h

theorem inside_beginHold : cursorInside (beginHold s) := inside_resume (inside_takeHold h)

theorem inside_beginErase : cursorInside (beginErase s) := inside_resume (s := startErase s) h

theorem inside_beginSend : cursorInside (beginSend s) := by
  refine inside_resume ?_
  repeat' split
  · exact inside_takeHold h
  · exact inside_startWalk h _
  · exact inside_startWalk h _

theorem inside_runUnlock : cursorInside (runUnlock s) := by
  have unlocked : cursorInside (runUnlock.unlock s) := by
    unfold runUnlock.unlock; split
    · exact inside_resume (inside_startClearPass h)
    · exact inside_finishDirective (inside_unlockKeyboard h) _
  unfold runUnlock; split
  · exact inside_finishDirective h _
  · exact unlocked
  · exact unlocked

theorem inside_placeCursor : cursorInside (placeCursor s) := by
  unfold placeCursor; split
  · exact inside_finishDirective h _
  · exact inside_finishDirective (inside_setCursor h _) _

theorem inside_gatherFields : cursorInside (gatherFields s) := by
  unfold gatherFields; dsimp only; split
  · exact inside_finishDirective (s := { s with composer.abortMark := false }) h _
  · exact inside_resume (inside_openList h)

theorem inside_resetModified : cursorInside (resetModified s) := by
  unfold resetModified; split
  · exact inside_finishDirective h _
  · exact inside_resume (inside_startClearPass h)

theorem inside_clearInput : cursorInside (clearInput s) := by
  unfold clearInput; split
  · exact inside_finishDirective h _
  · exact inside_resume (s := startErase s) h

theorem inside_rebuildMap : cursorInside (rebuildMap s) :=
  inside_startRebuild (s := { s with composer.engine := .paused, composer.workingTable := some s.map.table }) h

theorem inside_flushQueue : cursorInside (flushQueue s) := by
  unfold flushQueue
  rw [freeTokens_frame]
  exact inside_finishDirective (s := { s with slots := _, queue := [] }) h _

/-! ### Every command -/

theorem inside_exec {c : Instr} {t : State} (ht : exec c s = .next t) : cursorInside t := by
  cases c with
  | coldReset =>
    cases ht
    split
    · exact h
    · exact nofun
  | coldResetEnd straps => exact inside_event (f := coldEnded straps) h h ht
  | warmReset =>
    refine inside_event (can := true) (f := fun s => abortNow (warmValues s)) h ?_ ht
    obtain ⟨ph, todo, c, e, -⟩ := abortNow_form (warmValues s)
    show cursorInside (abortNow (warmValues s))
    rw [e]
    exact h
  | processorTransfer => exact inside_event h (inside_takeIn h _) ht
  | memoryPortGrant => exact inside_event h (inside_portGrant h) ht
  | processorTransferCompletion => exact inside_event h (inside_transferDone h) ht
  | mergeReadCompletion => exact inside_event h (inside_mergeReadDone h) ht
  | heldRangePosting => exact inside_event h (inside_postingTaken h) ht
  | readStateWord | readCauseWord => exact inside_readReport h ht
  | directiveIntake | unknownDirective | writeOperand | clearCounter | clearCauses | reportWordWrite =>
    exact inside_reportWriteRow h ht
  | applyRequest cls v =>
    change (if s.coldAsserted then _ else _) = _ at ht
    split at ht
    · cases ht; exact h
    · exact inside_wordWriteRow h ht
  | applyTaken => exact inside_event (f := takeApply) h h ht
  | setupReadCompletion => exact inside_event h (inside_setupReadDone h) ht
  | resultWordWriteCompletion => exact inside_event h (inside_resultWordDone h) ht
  | resultEvent => exact inside_event h (inside_resultDone h) ht
  | scanReadCompletion => exact inside_event h (inside_scanReadDone h) ht
  | keyboardFrame code p f =>
    exact inside_event (f := keyboardCompletes ⟨code, p, f⟩) h
      (inside_keyboardResult (by exact h) _) ht
  | scannerFrame => exact inside_event h (inside_scannerCompletes h _) ht
  | gapCompareExpiry => exact inside_event h (inside_gapExpiry h) ht
  | holdoffCompareExpiry => exact inside_event (f := holdoffExpiry) h h ht
  | toneCompareExpiry => exact inside_event (f := toneExpiry) h h ht
  | headVerdict => exact inside_event h (inside_headVerdict h) ht
  | cur | cul | cuu | cud => exact inside_tokenRow h (fun hy => inside_moved hy _) ht
  | hom | tab | btb | nln => exact inside_tokenRow h (fun hy => inside_beginMove hy _) ht
  | bsp => exact inside_tokenRow h inside_backspace ht
  | ins =>
    exact inside_tokenRow (f := fun y => endWork { y with composer.insertMode := !y.composer.insertMode }) h
      (fun {y} hy => inside_endWork (s := { y with composer.insertMode := !y.composer.insertMode }) hy) ht
  | rst =>
    exact inside_tokenRow (f := fun y => endWork (insertOff y)) h
      (fun {y} hy => inside_endWork (s := insertOff y) hy) ht
  | dataCharacter | del | eef | fex | fmn | scanToken => exact inside_tokenRow h inside_beginHold ht
  | ein | clr => exact inside_tokenRow h inside_beginErase ht
  | ent | f1ToF12 => exact inside_tokenRow h inside_beginSend ht
  | composerTransferCompletion => exact inside_event h (inside_composerDone h) ht
  | unlk => exact inside_directiveRow h inside_runUnlock ht
  | lock =>
    exact inside_directiveRow (f := fun y => finishDirective .done (lockKeyboard y)) h
      (fun hy => inside_finishDirective (inside_lockKeyboard hy) _) ht
  | plcr => exact inside_directiveRow h inside_placeCursor ht
  | gmod | gunp => exact inside_directiveRow h inside_gatherFields ht
  | rmod => exact inside_directiveRow h inside_resetModified ht
  | clin => exact inside_directiveRow h inside_clearInput ht
  | rbld => exact inside_directiveRow h inside_rebuildMap ht
  | flsh => exact inside_directiveRow h inside_flushQueue ht
  | statusWriteCompletion => exact inside_event h (inside_statusDone h) ht
  | attnPulseEnd => exact inside_event (f := endPulse) h h ht
  | lineSample => exact inside_event h (inside_lineSampled h _ _) ht
  | keyingTimerTick => exact inside_event h (inside_tick h) ht

theorem inside_step {t : State} (ht : step s = .next t) : cursorInside t := by
  unfold step at ht
  split at ht
  · cases ht; exact h
  next rest _ => exact inside_exec (s := { s with pending := rest }) h ht

end

/-- Settles O56: the setup over the moves of the field map's part, the cursor command by command. -/
theorem cursorStaysInsideForm : Obligations.CursorStaysInsideForm := fun _ _ hv hc h =>
  ⟨step_keeps (P := setupValid) (fun _ _ => setupValid_move) h hv, inside_step hc h⟩

end Sys2Proof.Machine
end

section
/-! The keys that write no cell and take no hold: the arrow keys, BSP, INS and RST (R30, R135, R137). -/

namespace Sys2Proof.Machine

/-- A key that moves the cursor to x mod N and ends, no range held or posted. -/
theorem moveCursor_free {s : State} {code : Byte} (h1 : s.heldRange = .empty) (h2 : s.posting = none)
    (hw : s.composer.work = .token (.key code)) (x : Nat) :
    moveCursor x s = { s with composer := idleWith (x % s.formN) s.composer.insertMode s.composer } :=
  endWork_key_free (s := setCursor x s) h1 h2 hw

/-- The row of a key that does nothing but move the cursor (R135). -/
theorem moveRow_runs {s : State} {code : Byte} {f : State → Nat} {y : Nat} (hj : claimsJoined s)
    (h1 : s.heldRange = .empty) (h2 : s.posting = none) (ht : tokenTaken (.key code) s)
    (hf : f (tokenBegun s) % s.formN = y) :
    ∃ t, tokenRow (isKey code) (fun z => moveCursor (f z) z) s = .next t ∧
      besidesStatus t = besidesStatus { s with composer := idleWith y s.composer.insertMode s.composer } := by
  subst hf
  exact tokenRow_runs ht (by simp [isKey]) (moveCursor_free (s := tokenBegun s) h1 h2 ht.1 _) hj

/-- Settles O30: each formula is computed mod N, and the token ends. -/
theorem arrowKeysMoveCursor : Obligations.ArrowKeysMoveCursor := by
  intro s u hj hfree hu n x moved
  obtain ⟨hr, hp, -⟩ := hfree
  have hN : s.formN = n := by simp [State.formN, hu, n, formSize]
  have hC : s.formC = setupCols u := by simp [State.formC, hu]
  refine ⟨fun ht => ?_, fun ht => ?_, fun ht => ?_, fun ht => ?_⟩
  · refine moveRow_runs (f := fun z => cursorRight z.formN z.composer.cursor) hj hr hp ht ?_
    show (x + 1) % s.formN % s.formN = _
    rw [hN, Nat.mod_mod]
  · refine moveRow_runs (f := fun z => cursorLeft z.formN z.composer.cursor) hj hr hp ht ?_
    show (x + s.formN - 1) % s.formN % s.formN = _
    rw [hN, Nat.mod_mod]
  · refine moveRow_runs (f := fun z => cursorUp z.formN z.formC z.composer.cursor) hj hr hp ht ?_
    show (x + s.formN - s.formC) % s.formN % s.formN = _
    rw [hN, hC, Nat.mod_mod]
  · refine moveRow_runs (f := fun z => cursorDown z.formN z.formC z.composer.cursor) hj hr hp ht ?_
    show (x + s.formC) % s.formN % s.formN = _
    rw [hN, hC, Nat.mod_mod]

/-- BSP moves back inside an unprotected field, and ends (R137). -/
theorem backspace_free {s : State} {code : Byte} {f : Field} (h1 : s.heldRange = .empty) (h2 : s.posting = none)
    (hw : s.composer.work = .token (.key code)) (hf : fieldAt s.workingFields s.composer.cursor = some f) :
    backspace s =
      { s with
        composer :=
          idleWith
            (if isDataOf s.formN f s.composer.cursor = true ∧ 0 < offsetOf s.formN f s.composer.cursor ∧
                isProtected f.word = false
             then (s.composer.cursor + s.formN - 1) % s.formN else s.composer.cursor)
            s.composer.insertMode s.composer } := by
  have hcond : (isDataOf s.formN f s.composer.cursor && decide (0 < offsetOf s.formN f s.composer.cursor) &&
      !isProtected f.word) = true ↔ isDataOf s.formN f s.composer.cursor = true ∧
        0 < offsetOf s.formN f s.composer.cursor ∧ isProtected f.word = false := by simp [and_assoc]
  unfold backspace
  rw [hf]
  dsimp only
  by_cases h : isDataOf s.formN f s.composer.cursor = true ∧ 0 < offsetOf s.formN f s.composer.cursor ∧
      isProtected f.word = false
  · rw [if_pos (hcond.2 h), if_pos h, moveCursor_free h1 h2 hw, cursorLeft, Nat.mod_mod]
  · rw [if_neg fun h' => h (hcond.1 h'), if_neg h, endWork_key_free h1 h2 hw]

/-- Settles O33: BSP by its three conditions; INS and RST in the composer that the end of the token leaves. -/
theorem backspaceInsertReset : Obligations.BackspaceInsertReset := by
  intro s hj hfree
  obtain ⟨hr, hp, -⟩ := hfree
  refine ⟨fun f ht hf => ?_, fun ht => ?_, fun ht => ?_⟩
  · exact tokenRow_runs (p := isKey 0x88#8) ht rfl (backspace_free (s := tokenBegun s) hr hp ht.1 hf) hj
  · exact tokenRow_runs (p := isKey 0x8A#8)
      (f := fun y => endWork { y with composer.insertMode := !y.composer.insertMode }) ht rfl
      (endWork_key_free (s := { s with composer.begun := true, composer.insertMode := !s.composer.insertMode }) hr hp
        ht.1) hj
  · exact tokenRow_runs (p := isKey 0x8F#8) (f := fun y => endWork (insertOff y)) ht rfl
      (endWork_key_free (s := insertOff (tokenBegun s)) hr hp ht.1) hj

end Sys2Proof.Machine
end

section
/-! How the erase pass, the sends and the clear-modified pass begin: the first posting (R140, R146, R150, R151, R154,
R179). -/

namespace Sys2Proof.Machine

/-! ### The erase pass and the sends -/

/-- The validation walk posts the range of its first field (R151). -/
theorem startWalk_first {s : State} {g : Field} {gs : List Field} (w : Walk) (hm : s.map.state = .current)
    (hg : s.liveFields = g :: gs) :
    startWalk w s =
      setTodo [.post (heldRangeOf s.map.table g), .call (.stepFirst w g.mark g.len)]
        { s with composer.lastHandled := none } := by
  have hg' : State.liveFields { s with composer.lastHandled := none } = g :: gs := hg
  unfold startWalk selectStep selectField
  simp only [hm, hg', List.head?_cons]

/-- A send with no exit processing due begins the walk (R150). -/
theorem beginSend_walk {s : State} {u : SetupBlock} {f g : Field} {gs : List Field} (hu : s.setup.active = some u)
    (hm : s.map.state = .current) (hf : s.lookup s.composer.cursor = some f)
    (hdue : sendExitDue s.formN f s.composer.cursor = false) (hg : s.liveFields = g :: gs) :
    beginSend s =
      awaiting (heldRangeOf s.map.table g) (.stepFirst .validate g.mark g.len)
        { s with composer.lastHandled := none } := by
  unfold beginSend
  rw [hf]
  dsimp only
  rw [hdue, if_neg (by simp), startWalk_first .validate hm hg]
  exact carryOn_post 15 _ _ hu

/-- Settles O35: the erase pass posts WHOLE, the walk the range of its first field. -/
theorem eraseAndSendBegin : Obligations.EraseAndSendBegin := by
  intro s u c tok hj hu ht
  refine ⟨fun hc => ?_, fun f g gs hc hm hf hdue hg => ?_⟩
  · have herase : beginErase (tokenBegun s) = awaiting .whole .eraseTaken (tokenBegun s) :=
      carryOn_post 15 .whole .eraseTaken (s := tokenBegun s) hu
    rcases hc with ⟨rfl, rfl⟩ | ⟨rfl, rfl⟩
    · exact tokenRow_runs (p := isKey 0x8C#8) ht rfl herase hj
    · exact tokenRow_runs (p := isKey 0xCF#8) ht rfl herase hj
  · have hsend := beginSend_walk (s := tokenBegun s) hu hm hf hdue hg
    rcases hc with ⟨rfl, rfl⟩ | ⟨rfl, ch, rfl, h1, h2⟩
    · exact tokenRow_runs (p := isKey 0xC0#8) ht rfl hsend hj
    · exact tokenRow_runs (f := beginSend) ht (by simp [h1, h2]) hsend hj

/-! ### RMOD and CLIN -/

/-- The clear-modified pass of RMOD over a table with no mark is done at once (R146, R179). -/
theorem resume_startClearPass_rmod {s : State} {op : Word} (hm : s.map.state = .current) (ht : s.map.table = [])
    (hr : s.heldRange = .empty) (hp : s.posting = none) (hw : s.composer.work = .directive .rmod op)
    (hi : s.report.intake.state = .running) :
    resume (startClearPass s) =
      directiveAnswered .done { s with composer.lastHandled := none, map.modified := false } := by
  have hpass : passEnded (unmarkedPass s) = finishDirective .done (unmarkedPass s) := passEnded_done (d := .rmod) hw
  rw [startClearPass_unmarked ht, hpass, finishDirective_answered (s := unmarkedPass s) hr hp hw hi,
    unmarkedPass_current hm]
  exact carryOn_nil 16 rfl

/-- Settles O48: RMOD by the table it finds, CLIN, and both in LIMIT. -/
theorem resetModifiedAndClearInput : Obligations.ResetModifiedAndClearInput := by
  intro s u hj hfree hu
  obtain ⟨hr, hp, -⟩ := hfree
  refine ⟨fun hd hm => ?_, fun hd hm => ?_, fun c d hcd hd hm => ?_⟩
  · have hne : (takeDirective .rmod s).map.state ≠ .limit := fun h => nomatch hm.symm.trans h
    have hrun : resetModified (takeDirective .rmod s) = resume (startClearPass (takeDirective .rmod s)) := if_neg hne
    refine ⟨fun e es ht => ?_, fun ht => ?_⟩
    · have hmark := resume_startClearPass_mark (s := takeDirective .rmod s) hu ht
      exact directiveRow_answers (f := resetModified) hd (hrun.trans hmark) hj rfl rfl
    · have hover := resume_startClearPass_rmod (s := takeDirective .rmod s) hm ht hr hp rfl rfl
      exact directiveRow_answers (f := resetModified) hd (hrun.trans hover) hj rfl rfl
  · have hne : (takeDirective .clin s).map.state ≠ .limit := fun h => nomatch hm.symm.trans h
    have hrun : clearInput (takeDirective .clin s) = resume (startErase (takeDirective .clin s)) := if_neg hne
    have herase : resume (startErase (takeDirective .clin s)) = awaiting .whole .eraseTaken (takeDirective .clin s) :=
      carryOn_post 15 .whole .eraseTaken (s := takeDirective .clin s) hu
    exact directiveRow_answers (f := clearInput) hd (hrun.trans herase) hj rfl rfl
  · have hrefused := finishDirective_answered (s := takeDirective d s) hr hp rfl rfl .refusedState
    rcases hcd with ⟨rfl, rfl⟩ | ⟨rfl, rfl⟩
    · exact directiveRow_answers (f := resetModified) hd ((if_pos hm).trans hrefused) hj rfl rfl
    · exact directiveRow_answers (f := clearInput) hd ((if_pos hm).trans hrefused) hj rfl rfl

end Sys2Proof.Machine
end

section
/-! The apply, from its taking to the result event (R127, R194, R195, R197, R199). -/

namespace Sys2Proof.Machine

/-- A setup word before the last has been read: it is kept, and the next is claimed (R195). -/
theorem setupReadDone_next {s : State} {a : WordAddr}
    (hp : s.port = some { owner := .setupRead, addr := a, op := .read, orphan := false })
    (hl : s.setup.fetched.length < 19) :
    setupReadDone s =
      claimSetup .setupRead (s.setup.fetched.length + 1) .read
        { s with port := none, setup.fetched := s.setup.fetched ++ [readWord s.mem a] } := by
  have hlen : (s.setup.fetched ++ [readWord s.mem a]).length = s.setup.fetched.length + 1 := List.length_append
  unfold setupReadDone
  rw [hp, ← hlen]
  exact if_pos (hlen.trans_lt (by omega))

/-- The apply word has been cleared: the result is offered, a refused apply having ended first (R197, R199). -/
theorem resultDone_offers {s : State} {a : WordAddr} {v : Word}
    (hp : s.port = some { owner := .setupClear, addr := a, op := .write .word v, orphan := false })
    (hw : s.composer.work = .apply) :
    resultDone s =
      offer .setupResult
        (if s.setup.result = some 0x0001#16 then
          { s with mem := writeLanes s.mem a .word v, port := none, setup.fetched := [], setup.result := none }
        else
          idleComposer
            { s with
              mem := writeLanes s.mem a .word v, port := none, setup.fetched := [], setup.result := none,
              setup.state := s.setup.prior }) := by
  unfold resultDone
  rw [hp]
  dsimp only [portDone, memAfter]
  rw [if_neg (by simp)]
  split
  · rfl
  · unfold applyRefused leavePause
    simp only [hw]
    rfl

/-- Settles O20: one event of the apply after another. -/
theorem applyFetchesAndAnswers : Obligations.ApplyFetchesAndAnswers := by
  refine ⟨fun s hj => ⟨fun he ha => ?_, fun a hp hl => ?_⟩, fun s a v hj => ⟨fun hp => ?_, fun hp hw => ?_⟩⟩
  · exact event_effect (s.composer.engine == .idle && s.setup.applyWaits) takeApply s (by simp [he, ha]) hj
  · have hdone := setupReadDone_next hp hl
    obtain ⟨t, ht, hb⟩ := event_effect (carriesOwner .setupRead s) setupReadDone s (by simp [carriesOwner, hp])
      (hdone ▸ hj)
    exact ⟨t, ht, hb.trans (congrArg besidesStatus hdone)⟩
  · have hdone : resultWordDone s =
        claimSetup .setupClear 31 (.write .word 0#16)
          { s with mem := writeLanes s.mem a .word v, port := none } := by
      unfold resultWordDone
      rw [hp]
      rfl
    obtain ⟨t, ht, hb⟩ := event_effect (carriesOwner .setupResult s) resultWordDone s
      (by simp [carriesOwner, hp]) (hdone ▸ hj)
    exact ⟨t, ht, hb.trans (congrArg besidesStatus hdone)⟩
  · have hdone := resultDone_offers hp hw
    have hjoined : claimsJoined (resultDone s) := by
      rw [hdone]
      split <;> exact hj
    obtain ⟨t, ht, hb⟩ := event_effect (carriesOwner .setupClear s) resultDone s (by simp [carriesOwner, hp]) hjoined
    rw [hdone] at hb
    have hcauses := besidesCauses_congr hb
    refine ⟨t, ht, (congrArg (·.report.pending) hb).trans ?_, (congrArg (·.report.seen) hb).trans ?_, fun hres => ?_,
      fun hres => ?_⟩
    · split <;> rfl
    · split <;> rfl
    · rw [hcauses, if_pos hres]; rfl
    · rw [hcauses, if_neg hres]; rfl

end Sys2Proof.Machine
end

section
/-! ATTN follows the causes (R184, R188): its level at every move of a step, and what an offer does to the cause bits. -/

namespace Sys2Proof.Machine

/-! ### The level at every step -/

/-- The level reads nothing but the causes, the pulse and the active setup. -/
theorem attnLevel_congr {s t : State} (h : causePart t = causePart s) : attnLevel t = attnLevel s := by
  change attnLevel (causePart t) = attnLevel (causePart s)
  rw [h]

theorem attnDriven_driveAttn (s : State) : attnDriven (driveAttn s) := rfl

theorem attnDriven_move {s t : State} (hm : CauseMove s t) (h : attnDriven s) : attnDriven t := by
  cases hm with
  | calm e =>
    have ha : t.attn = s.attn := congrArg (fun y => y.attn) e
    exact ha.trans (h.trans (attnLevel_congr e).symm)
  | offered | cleared | pulseEnd | switched | warm => exact attnDriven_driveAttn _
  | cold => rfl
  | read | granted => exact h

/-! ### The level, written out (R188) -/

/-- Two bytes share a bit exactly when their conjunction is not zero. -/
theorem and_ne_zero_iff (p q : Byte) : (p &&& q != 0#8) = true ↔ ∃ b < 8, p.getLsbD b = true ∧ q.getLsbD b = true := by
  rw [bne_iff_ne, ne_eq, BitVec.eq_of_getLsbD_eq_iff]
  simp [and_comm]

theorem causeEnables_getLsbD (u : SetupBlock) {b : Nat} (hb : b < 8) :
    (causeEnables u).getLsbD b = (setupWord u 15).getLsbD b := by
  simp [causeEnables, hb]

theorem attnDriven_iff (s : State) : attnDriven s ↔
    (s.setup.active = none → s.attn = false) ∧
    ∀ u, s.setup.active = some u →
      (pulseMode u = false →
        (s.attn = true ↔ ∃ b < 8, s.report.pending.getLsbD b = true ∧ (setupWord u 15).getLsbD b = true)) ∧
      (pulseMode u = true → s.attn = s.report.pulse) := by
  have bits (u : SetupBlock) :
      (s.report.pending &&& causeEnables u != 0#8) = true ↔
        ∃ b < 8, s.report.pending.getLsbD b = true ∧ (setupWord u 15).getLsbD b = true :=
    (and_ne_zero_iff _ _).trans
      (exists_congr fun b => and_congr_right fun hb => by rw [causeEnables_getLsbD u hb])
  unfold attnDriven attnLevel
  cases hu : s.setup.active with
  | none => simp
  | some u =>
    cases hp : pulseMode u with
    | false =>
      have hl : s.attn = (s.report.pending &&& causeEnables u != 0#8) ↔
          (s.attn = true ↔ ∃ b < 8, s.report.pending.getLsbD b = true ∧ (setupWord u 15).getLsbD b = true) := by
        rw [← bits u, Bool.eq_iff_iff]
      simpa [hp] using hl
    | true => simp [hp]

/-! ### An offer (R184, R188) -/

theorem causeNumber_lt (c : Cause) : causeNumber c < 8 := by cases c <;> decide

theorem causeBit_eq_twoPow (c : Cause) : causeBit c = BitVec.twoPow 8 (causeNumber c) := rfl

theorem causeBit_getLsbD (c : Cause) (i : Nat) : (causeBit c).getLsbD i = (i == causeNumber c) := by
  simp only [causeBit_eq_twoPow, BitVec.getLsbD_twoPow, causeNumber_lt c, decide_true, Bool.true_and]
  exact Bool.eq_iff_iff.2 (by simpa using eq_comm)

theorem and_causeBit_eq_zero (p : Byte) (c : Cause) : (p &&& causeBit c == 0#8) = !p.getLsbD (causeNumber c) := by
  have hne : BitVec.twoPow 8 (causeNumber c) ≠ 0#8 := by cases c <;> decide
  rw [causeBit_eq_twoPow, BitVec.and_twoPow]
  cases p.getLsbD (causeNumber c) <;> simp [hne]

/-- An offer begins a pulse in pulse mode exactly when the cause is enabled and was not pending (R188). -/
theorem startsPulse_eq {c : Cause} {s : State} {u : SetupBlock} (hu : s.setup.active = some u)
    (hp : pulseMode u = true) :
    startsPulse c s =
      ((setupWord u 15).getLsbD (causeNumber c) && !s.report.pending.getLsbD (causeNumber c)) := by
  have hmode : inPulseMode s = true := by simp [inPulseMode, hu, hp]
  have hon : enabledCauses s = causeEnables u := by simp [enabledCauses, hu]
  unfold startsPulse
  rw [hmode, hon, bne, and_causeBit_eq_zero, and_causeBit_eq_zero, causeEnables_getLsbD u (causeNumber_lt c),
    Bool.not_not, Bool.true_and, Bool.and_comm]

theorem offer_pending_getLsbD (c : Cause) (s : State) (i : Nat) :
    (offer c s).report.pending.getLsbD i = (s.report.pending.getLsbD i || i == causeNumber c) := by
  rw [offer_pending, BitVec.getLsbD_or, causeBit_getLsbD c i]

theorem offer_seen_getLsbD (c : Cause) (s : State) {i : Nat} (hi : i < 8) :
    (offer c s).report.seen.getLsbD i = (s.report.seen.getLsbD i && i != causeNumber c) := by
  rw [offer_seen, BitVec.getLsbD_and, BitVec.getLsbD_not, causeBit_getLsbD c i]
  simp [hi, bne]

/-- In pulse mode ATTN is the pulse, which an offer may begin. -/
theorem offer_pulse {c : Cause} {s : State} {u : SetupBlock} (hu : s.setup.active = some u) (hp : pulseMode u = true) :
    (offer c s).report.pulse =
        (s.report.pulse ||
          ((setupWord u 15).getLsbD (causeNumber c) && !s.report.pending.getLsbD (causeNumber c))) ∧
      (offer c s).attn = (offer c s).report.pulse := by
  have hlevel := ((attnDriven_iff (offer c s)).1 (attnDriven_driveAttn _)).2 u hu
  exact ⟨congrArg (s.report.pulse || ·) (startsPulse_eq hu hp), hlevel.2 hp⟩

/-- Settles O55: every move of a step keeps the level, and an offer changes its own bit and may begin a pulse. -/
theorem attentionFollowsCauses : Obligations.AttentionFollowsCauses := by
  refine ⟨fun s t h hs => step_keeps_causes (fun _ _ => attnDriven_move) hs h, attnDriven_iff, fun c s => ?_⟩
  exact ⟨fun i _ => offer_pending_getLsbD c s i, fun i hi => offer_seen_getLsbD c s hi, fun u => offer_pulse⟩

end Sys2Proof.Machine
end

section
/-! Word writes to the report words: the directive intake, the operand, the counters and the cause word (R170 to R173,
R186, R188). -/

namespace Sys2Proof.Machine

/-- A word write to a report word answers what the report unit makes of it, the word in memory (R65, R170). -/
theorem reportWriteRow_answers {i : Fin 32} {u : SetupBlock} {cls : AccessClass} {v : Word} {s x : State}
    (hu : s.setup.active = some u) (h : writeRuns (some i) (reportAddr u i.val) cls v s)
    (hx : reportWrite i v (afterWrite (reportAddr u i.val) v s) = x) (hc : x.claimOrder = s.claimOrder)
    (hq : x.queue = s.queue) (hp : x.posting = s.posting) :
    ∃ t, reportWriteRow i cls v s = .next t ∧ besidesStatus t = besidesStatus x := by
  obtain ⟨hj, -, -, -, -, hpost, -⟩ := id h
  have hrun := reportWriteRow_runs i u cls v s hu h
  rw [hx, takeOwedEmpty_none (by simp [hp, hpost])] at hrun
  exact ⟨_, hrun, besidesStatus_settle_id s x (claimsJoined_of_queue hj hc hq)⟩

/-! ### The directive intake (R172, R173) -/

/-- The directive accepted with code c (R173). -/
def directivePending (c : Byte) (s : State) : State :=
  { s with
    report.intake :=
      { state := .pending, code := c, operand := s.report.operand, completion := .none, overlap := false } }

/-- The directive of unknown code c completed at once, before its cause is offered (R173). -/
def directiveUnknown (c : Byte) (s : State) : State :=
  { s with
    report.intake :=
      { state := .completed, code := c, operand := s.report.operand, completion := .refusedUnknown, overlap := false } }

theorem directiveWrite_overlaps {v : Word} {s : State}
    (h : s.report.intake.state = .pending ∨ s.report.intake.state = .running) :
    directiveWrite v s = { s with report.intake.overlap := true } := by
  rcases h with h | h <;> simp only [directiveWrite, h]

theorem directiveWrite_taken {v : Word} {s : State}
    (h : s.report.intake.state = .none ∨ s.report.intake.state = .completed) :
    directiveWrite v s =
      if 1 ≤ v.toNat % 256 ∧ v.toNat % 256 ≤ 9 then directivePending (v.setWidth 8) s
      else offer .directiveDone (directiveUnknown (v.setWidth 8) s) := by
  have hd : directiveWrite v s = directiveWrite.acceptDirective v s := by
    rcases h with h | h <;> simp only [directiveWrite, h]
  have hcode : (v.setWidth 8 : Byte).toNat = v.toNat % 256 := BitVec.toNat_setWidth 8 v
  rw [hd, directiveWrite.acceptDirective]
  simp only [hcode, Bool.and_eq_true, decide_eq_true_eq]
  rfl

/-- Settles O16: each row is the write of word 5, and the intake takes it by its state and the code. -/
theorem directiveWriteTable : Obligations.DirectiveWriteTable := by
  intro s u cls v c hu hrow h
  have hexec : exec c s = reportWriteRow 5 cls v s := by rcases hrow with rfl | rfl <;> rfl
  rw [hexec]
  refine ⟨fun hi => ?_, fun hi => ⟨fun hcode => ?_, fun hcode => ?_⟩⟩
  · exact reportWriteRow_answers hu h (directiveWrite_overlaps (by exact hi)) rfl rfl rfl
  · have hw := directiveWrite_taken (v := v) (s := afterWrite (reportAddr u 5) v s) hi
    exact reportWriteRow_answers hu h (hw.trans (if_pos hcode)) rfl rfl rfl
  · have hw := directiveWrite_taken (v := v) (s := afterWrite (reportAddr u 5) v s) hi
    obtain ⟨t, ht, hb⟩ := reportWriteRow_answers hu h (hw.trans (if_neg (by omega))) rfl rfl rfl
    exact ⟨t, ht, (besidesCauses_congr hb).trans rfl, congrArg (fun y => y.report.pending) hb,
      congrArg (fun y => y.report.seen) hb⟩

/-! ### The operand, the counters and the words with no action (R170 to R172) -/

theorem reportWrite_counter (k : Counter) (s : State) :
    reportWrite (counterWord k) 0#16 s = { s with report.counters := setCounter s.report.counters k 0#16 } := by
  cases k <;> rfl

theorem reportWrite_inert {i : Fin 32} (h : i.val ≤ 4 ∨ (7 ≤ i.val ∧ i.val ≤ 9) ∨ i.val = 15 ∨ 17 ≤ i.val) (v : Word)
    (s : State) : reportWrite i v s = s := by
  have hne {n : Nat} (hn : n = 5 ∨ n = 6 ∨ (10 ≤ n ∧ n ≤ 14) ∨ n = 16) : i.val ≠ n := by omega
  simp [reportWrite, hne]

/-- Settles O17: the write of the operand, of a counter, and of a word the report unit does not act on. -/
theorem operandAndCounterWrites : Obligations.OperandAndCounterWrites := by
  intro s u cls v hu
  refine ⟨fun h => ?_, fun k h => ?_, fun i hi h => ?_⟩
  · exact reportWriteRow_answers hu h rfl rfl rfl rfl
  · exact reportWriteRow_answers hu h (reportWrite_counter k _) rfl rfl rfl
  · exact reportWriteRow_answers hu h (reportWrite_inert hi v _) rfl rfl rfl

/-! ### The cause word (R186, R188) -/

theorem clearCauses_getLsbD (v : Word) (s : State) {b : Nat} (hb : b < 8) :
    (clearCauses v s).report.pending.getLsbD b =
      (s.report.pending.getLsbD b && !(s.report.seen.getLsbD b && !v.getLsbD b)) := by
  show (s.report.pending &&& ~~~(s.report.seen &&& ~~~(v.setWidth 8))).getLsbD b = _
  simp [hb]

/-- Settles O18: the seen causes written 0 leave the pending set, and ATTN takes the level of R188. -/
theorem causeWordWriteClearsSeenCauses : Obligations.CauseWordWriteClearsSeenCauses := by
  intro s u cls v hu h
  obtain ⟨t, ht, hb⟩ :=
    reportWriteRow_answers (x := clearCauses v (afterWrite (reportAddr u 16) v s)) hu h rfl rfl rfl rfl
  have hpending : t.report.pending = (clearCauses v (afterWrite (reportAddr u 16) v s)).report.pending :=
    congrArg (fun y => y.report.pending) hb
  have hlevel : t.attn = attnLevel (clearCauses v (afterWrite (reportAddr u 16) v s)) := congrArg (fun y => y.attn) hb
  refine ⟨t, ht, fun b h8 => ?_, congrArg (fun y => y.report.seen) hb, congrArg (fun y => y.report.pulse) hb, ?_,
    (besidesCauses_congr hb).trans rfl⟩
  · rw [hpending]
    exact clearCauses_getLsbD v _ h8
  · rw [hlevel, hpending]
    simp only [attnLevel, clearCauses, driveAttn, afterWrite, hu]

end Sys2Proof.Machine
end

section
/-! PLCR (R177). -/

namespace Sys2Proof.Machine

theorem placeCursor_refused {s : State} (h : s.formN ≤ (takenOperand s).toNat) :
    placeCursor s = finishDirective .refusedRange s := if_pos h

theorem placeCursor_moves {s : State} (h : (takenOperand s).toNat < s.formN) :
    placeCursor s = finishDirective .done { s with composer.cursor := (takenOperand s).toNat } := by
  have hset : setCursor (takenOperand s).toNat s = { s with composer.cursor := (takenOperand s).toNat } := by
    unfold setCursor
    rw [Nat.mod_eq_of_lt h]
  unfold placeCursor
  rw [if_neg (Nat.not_le.2 h), hset]

/-- Settles O46: the directive ends in the event of its taking, the cursor at the operand or where it was. -/
theorem placeCursorDirective : Obligations.PlaceCursorDirective := by
  intro s u hj hfree hu hd n op done
  obtain ⟨hr, hp, -⟩ := hfree
  have hN : (takeDirective .plcr s).formN = n := congrArg (fun a => a.elim 0 formSize) hu
  refine ⟨fun h => ?_, fun h => ?_⟩
  · have hx : placeCursor (takeDirective .plcr s) = done .done op :=
      (placeCursor_moves (hN ▸ h)).trans
        (finishDirective_answered (s := { takeDirective .plcr s with composer.cursor := op }) hr hp rfl rfl .done)
    exact directiveRow_answers hd hx hj rfl rfl
  · have hx : placeCursor (takeDirective .plcr s) = done .refusedRange s.composer.cursor :=
      (placeCursor_refused (hN ▸ h)).trans
        (finishDirective_answered (s := takeDirective .plcr s) hr hp rfl rfl .refusedRange)
    exact directiveRow_answers hd hx hj rfl rfl

end Sys2Proof.Machine
end

section
/-! The status image, column by column (R182, 12.6). -/

namespace Sys2Proof.Machine

/-- The function gives the words of a list from place p on. -/
def GivesFrom (f : Nat → Word) (p : Nat) (ws : List Word) : Prop := ∀ j < ws.length, f (p + j) = ws.getD j 0x0020#16

theorem GivesFrom.append {f : Nat → Word} {p q : Nat} {ws vs : List Word} (hw : GivesFrom f p ws)
    (hv : GivesFrom f q vs) (hq : q = p + ws.length) : GivesFrom f p (ws ++ vs) := by
  intro j hj
  rcases Nat.lt_or_ge j ws.length with h | h
  · rw [hw j h, List.getD_append _ _ _ _ h]
  · have hj' : j - ws.length < vs.length := by rw [List.length_append] at hj; omega
    rw [List.getD_append_right _ _ _ _ h, ← hv _ hj', hq]
    congr 1
    omega

theorem GivesFrom.map_range {f : Nat → Word} {ws : List Word} (h : GivesFrom f 0 ws) :
    ws = (List.range ws.length).map f := by
  refine List.ext_getElem (by simp) fun j hj _ => ?_
  have hf := h j hj
  rw [Nat.zero_add, List.getD_eq_getElem _ _ hj] at hf
  simp [hf]

theorem fromPos_map_range (p n : Nat) (f : Nat → Word) :
    fromPos p ((List.range n).map f) = (List.range n).map (fun j => (p + j, f j)) := by
  rw [fromPos_eq]
  exact List.ext_getElem (by simp) fun j _ _ => by simp

/-! ### The groups of the row -/

theorem length_lockCells (l : Lock) : (lockCells l).length = 8 := by cases l <;> rfl

theorem length_insertCells (on : Bool) : (insertCells on).length = 3 := by cases on <;> rfl

theorem length_statusRow {cols : Nat} (hc : 24 ≤ cols) (l : Lock) (on : Bool) (x : Nat) :
    (statusRow cols l on x).length = cols := by
  simp only [statusRow, List.length_append, length_lockCells, length_insertCells, List.length_replicate, cursorCells,
    List.length_cons, List.length_nil]
  omega

/-- A row of columns has the lock in columns 0 to 7, insert mode in 9 to 11, the cursor in C − 7 to C − 2, and blanks in the
others (R182). -/
theorem statusRow_of_columns {cols : Nat} (hc : 24 ≤ cols) (l : Lock) (on : Bool) (x : Nat) {cell : Nat → Word}
    (hlock : GivesFrom cell 0 (lockCells l)) (hinsert : GivesFrom cell 9 (insertCells on))
    (hcursor : GivesFrom cell (cols - 7) (cursorCells cols x))
    (hblank : ∀ j, j = 8 ∨ (12 ≤ j ∧ j < cols - 7) ∨ j = cols - 1 → cell j = 0x0020#16) :
    statusRow cols l on x = (List.range cols).map cell := by
  have blank (p : Nat) (hp : p = 8 ∨ p = cols - 1) : GivesFrom cell p [0x0020#16] := by
    intro j hj
    obtain rfl : j = 0 := by simpa using hj
    exact hblank p (by omega)
  have gap : GivesFrom cell 12 (List.replicate (cols - 19) 0x0020#16) := by
    intro j hj
    rw [List.length_replicate] at hj
    rw [hblank _ (by omega), List.getD_replicate _ hj]
  have row : GivesFrom cell 0 (statusRow cols l on x) := by
    have hl := length_lockCells l
    have hi := length_insertCells on
    exact ((((hlock.append (blank 8 (.inl rfl)) (by simp [hl])).append hinsert (by simp [hl])).append gap
      (by simp [hl, hi])).append hcursor (by simp [hl, hi]; omega)).append (blank (cols - 1) (.inr rfl))
      (by simp [hl, hi, cursorCells]; omega)
  have hrow := row.map_range
  rwa [length_statusRow hc] at hrow

/-- Column j of the row where neither the lock nor insert mode is shown: the cursor's place at the right, blanks before it
and after it. -/
def cursorColumn (cols x j : Nat) : Word :=
  if j = cols - 7 then digitCell ((x / cols + 1) / 10)
  else if j = cols - 6 then digitCell (x / cols + 1)
  else if j = cols - 5 then 0x002F#16
  else if j = cols - 4 then digitCell ((x % cols + 1) / 100)
  else if j = cols - 3 then digitCell ((x % cols + 1) / 10)
  else if j = cols - 2 then digitCell (x % cols + 1)
  else 0x0020#16

theorem cursorColumn_blank {cols j : Nat} (x : Nat) (hc : 24 ≤ cols) (hj : j < cols - 7 ∨ j = cols - 1) :
    cursorColumn cols x j = 0x0020#16 := by
  have hne {k : Nat} (h2 : 2 ≤ k) (h7 : k ≤ 7) : j ≠ cols - k := by omega
  simp [cursorColumn, hne]

theorem cursorColumn_cursor {cols : Nat} (x : Nat) (hc : 24 ≤ cols) :
    GivesFrom (cursorColumn cols x) (cols - 7) (cursorCells cols x) := by
  intro j hj
  change j < 6 at hj
  unfold cursorColumn
  interval_cases j <;> simp (disch := omega) only [if_neg, if_pos] <;> rfl

/-- Columns that show the lock, insert mode where it is on, and else what stands right of them, are the status row. -/
theorem statusRow_of_shown {cols : Nat} (hc : 24 ≤ cols) {l : Lock} {on : Bool} {x : Nat} {cell : Nat → Word}
    (hlock : GivesFrom cell 0 (lockCells l)) (hon : on = true → GivesFrom cell 9 (insertCells true))
    (hright : ∀ j, 8 ≤ j → on = false ∨ j < 9 ∨ 11 < j → cell j = cursorColumn cols x j) :
    statusRow cols l on x = (List.range cols).map cell := by
  have hinsert : GivesFrom cell 9 (insertCells on) := by
    cases on with
    | true => exact hon rfl
    | false =>
      intro j hj
      change j < 3 at hj
      rw [hright _ (by omega) (.inl rfl), cursorColumn_blank x hc (by omega)]
      interval_cases j <;> rfl
  have hcursor : GivesFrom cell (cols - 7) (cursorCells cols x) := fun j hj =>
    (hright _ (by omega) (.inr (by omega))).trans (cursorColumn_cursor x hc j hj)
  exact statusRow_of_columns hc l on x hlock hinsert hcursor fun j hj =>
    (hright j (by omega) (.inr (by omega))).trans (cursorColumn_blank x hc (by omega))

end Sys2Proof.Machine
end

section
/-! The status pass, the update that a change requests, and the end of a pulse (R182, R183, R188, R189). -/

namespace Sys2Proof.Machine

/-! ### What every command does at its end -/

/-- A command changes nothing, or its event ends with the claims that join and the status pass (R109, R183). -/
def EndsEvent (s : State) (o : Host.Outcome State Fault Refusal) : Prop := o = .next s ∨ ∃ x, o = .next (settle s x)

theorem event_ends (can : Bool) (f : State → State) (s : State) : EndsEvent s (event can f s) := by
  cases can with
  | false => exact .inl rfl
  | true => exact .inr ⟨f s, rfl⟩

theorem readReport_ends (i : Fin 32) (cls : AccessClass) (l : Lanes) (s : State) :
    EndsEvent s (readReport i cls l s) := by
  unfold readReport
  split
  · exact .inl rfl
  · exact event_ends _ _ s

theorem wordWriteRow_ends (i : Option (Fin 32)) (a : WordAddr) (cls : AccessClass) (v : Word) (s : State) :
    EndsEvent s (wordWriteRow i a cls v s) := by
  unfold wordWriteRow
  dsimp only
  split
  · exact event_ends _ _ s
  · exact event_ends _ _ s

theorem reportWriteRow_ends (i : Fin 32) (cls : AccessClass) (v : Word) (s : State) :
    EndsEvent s (reportWriteRow i cls v s) := by
  unfold reportWriteRow
  split
  · exact .inl rfl
  · exact wordWriteRow_ends _ _ cls v s

theorem tokenRow_ends (p : Token → Bool) (f : State → State) (s : State) : EndsEvent s (tokenRow p f s) :=
  event_ends _ _ s

theorem directiveRow_ends (d : Directive) (f : State → State) (s : State) : EndsEvent s (directiveRow d f s) :=
  event_ends _ _ s

/-- Every command but the assertion of cold reset ends so, and none of them can lose a change of the status image (R189). -/
theorem exec_ends {c : Instr} (hc : c ≠ .coldReset) (s : State) : EndsEvent s (exec c s) := by
  cases c with
  | coldReset => exact absurd rfl hc
  | readStateWord | readCauseWord => exact readReport_ends _ _ _ s
  | directiveIntake | unknownDirective | writeOperand | clearCounter | clearCauses | reportWordWrite =>
    exact reportWriteRow_ends _ _ _ s
  | applyRequest cls v =>
    show EndsEvent s (if s.coldAsserted then _ else _)
    split
    · exact .inl rfl
    · exact wordWriteRow_ends _ _ cls v s
  | dataCharacter | cur | cul | cuu | cud | hom | tab | btb | nln | bsp | ins | rst | del | eef | ein | fex | fmn
  | scanToken | ent | f1ToF12 | clr =>
    dsimp only [exec]
    exact tokenRow_ends _ _ s
  | unlk | lock | plcr | gmod | gunp | rmod | clin | rbld | flsh =>
    dsimp only [exec]
    exact directiveRow_ends _ _ s
  | _ =>
    dsimp only [exec]
    exact event_ends _ _ s

/-! ### A change is noted (R183) -/

theorem statusKey_besides {s t : State} (h : besidesStatus t = besidesStatus s) : statusKey t = statusKey s := by
  have e := congrArg statusKey h
  exact e

/-- The image is formed from the lock, insert mode and the cursor alone (R182). -/
theorem statusImage_congr (u : SetupBlock) {s t : State} (h : statusKey t = statusKey s) :
    statusImage u t = statusImage u s := by
  simp only [statusKey, Prod.mk.injEq] at h
  obtain ⟨hl, hi, hc⟩ := h
  simp only [statusImage, hl, hi, hc]

theorem claimStatus_report (u : SetupBlock) (s : State) : (claimStatus u s).report = s.report := by
  unfold claimStatus
  split <;> rfl

/-- A requested update stays requested, or its pass begins with the image (R183). -/
theorem beginPass_requested {s : State} (h : s.report.updateRequested = true) :
    (beginPass s).report.updateRequested = true ∨
      ∃ u, (beginPass s).setup.active = some u ∧ (beginPass s).report.statusLeft = statusImage u (beginPass s) := by
  have hb := besidesStatus_beginPass s
  have hactive : (beginPass s).setup.active = s.setup.active := congrArg (fun y => y.setup.active) hb
  cases hu : s.setup.active with
  | none =>
    refine .inl ?_
    simp only [beginPass, hu, h]
  | some u =>
    by_cases hl : s.report.statusLeft = []
    · refine .inr ⟨u, hactive.trans hu, ?_⟩
      rw [statusImage_congr u (statusKey_besides hb)]
      simp only [beginPass, hu, h, hl, List.isEmpty_nil, Bool.and_self, if_true, claimStatus_report]
    · refine .inl ?_
      simp [beginPass, hu, h, hl]

/-- A change of the lock, insert mode or the cursor requests an update, or begins the pass with the new image (R183). -/
theorem settle_notes {s x : State} (h : statusKey (settle s x) ≠ statusKey s) :
    (settle s x).report.updateRequested = true ∨
      ∃ u, (settle s x).setup.active = some u ∧ (settle s x).report.statusLeft = statusImage u (settle s x) := by
  have hkey : statusKey (settle s x) = statusKey (joinClaims x) := statusKey_besides (besidesStatus_settle s x)
  refine beginPass_requested ?_
  unfold noteChange
  rw [if_neg fun e => h (hkey.trans e.symm)]

theorem exec_notes {c : Instr} {s t : State} (hc : c ≠ .coldReset) (h : exec c s = .next t)
    (hchange : t.lock ≠ s.lock ∨ t.composer.insertMode ≠ s.composer.insertMode ∨
      t.composer.cursor ≠ s.composer.cursor) :
    t.report.updateRequested = true ∨ ∃ u, t.setup.active = some u ∧ t.report.statusLeft = statusImage u t := by
  have hkey : statusKey t ≠ statusKey s := by
    simpa only [statusKey, ne_eq, Prod.mk.injEq, not_and_or] using hchange
  obtain e | ⟨x, e⟩ := exec_ends hc s
  · cases h.symm.trans e
    exact absurd rfl hkey
  · cases h.symm.trans e
    exact settle_notes hkey

/-! ### A write of the pass completes (R183) -/

/-- An event that leaves the status image as it was, with no update due, ends as its effect. -/
theorem settle_unchanged {s0 s1 : State} (hj : claimsJoined s1) (hk : statusKey s0 = statusKey s1)
    (hp : s1.report.updateRequested = false ∨ s1.report.statusLeft ≠ []) : settle s0 s1 = s1 := by
  have hbegin : beginPass s1 = s1 := by
    unfold beginPass
    split
    · rfl
    · refine if_neg ?_
      rcases hp with hp | hp <;> simp [hp]
  unfold settle noteChange
  rw [joinClaims_id s1 hj, if_pos hk, hbegin]

section
variable {s : State} {u : SetupBlock} {a : WordAddr} {v : Word}
  (hp : s.port = some { owner := .status, addr := a, op := .write .word v, orphan := false })
include hp

theorem statusDone_claims (hu : s.setup.active = some u) : statusDone s = claimStatus u
    { s with mem := writeLanes s.mem a .word v, port := none, report.statusLeft := s.report.statusLeft.tail } := by
  unfold statusDone
  rw [hp]
  simp only [portDone, memAfter, hu, Bool.false_eq_true, if_false]

theorem statusWrite_settles {x : State} (hx : statusDone s = x) : exec .statusWriteCompletion s = .next (settle s x) :=
  hx ▸ event_true _ statusDone s (by simp [carriesStatus, hp])

variable (hj : claimsJoined s) (hu : s.setup.active = some u)
include hj hu

theorem statusWrite_next {c d : Nat × Word} {rest : List (Nat × Word)} (hl : s.report.statusLeft = c :: d :: rest) :
    exec .statusWriteCompletion s =
      .next
        { s with
          mem := writeLanes s.mem a .word v, port := none, report.statusLeft := d :: rest
          reportClaim :=
            some { owner := .status, addr := cellAddr u d.1, op := .write .word d.2, orphan := false } } := by
  have hx := statusDone_claims hp hu
  rw [hl] at hx
  rw [statusWrite_settles hp hx]
  exact congrArg Host.Outcome.next (settle_unchanged hj rfl (.inr (List.cons_ne_nil d rest)))

theorem statusWrite_last {c : Nat × Word} (hl : s.report.statusLeft = [c]) (hr : s.report.updateRequested = false) :
    exec .statusWriteCompletion s =
      .next
        { s with
          mem := writeLanes s.mem a .word v, port := none, report.statusLeft := [], reportClaim := none } := by
  have hx := statusDone_claims hp hu
  rw [hl] at hx
  rw [statusWrite_settles hp hx]
  exact congrArg Host.Outcome.next (settle_unchanged hj rfl (.inl hr))

/-- After the last write of a pass a requested update begins the next pass at once. -/
theorem statusWrite_again {c : Nat × Word} (hl : s.report.statusLeft = [c]) (hr : s.report.updateRequested = true) :
    ∃ t, exec .statusWriteCompletion s = .next t ∧ t.mem = writeLanes s.mem a .word v ∧ t.port = none ∧
      t.report.statusLeft = statusImage u s ∧ t.report.updateRequested = false := by
  have hx := statusDone_claims hp hu
  rw [hl] at hx
  have hs := settle_begins_pass s (s1 := statusDone s) (u := u) (by rw [hx]; exact hj) (by rw [hx]; exact hu)
    (by rw [hx]; rfl) (by rw [hx]; exact hr)
  refine ⟨_, statusWrite_settles hp rfl, ?_, ?_, ?_, ?_⟩
  · rw [settle_mem, hx]; rfl
  · rw [settle_port, hx]; rfl
  · rw [hs, claimStatus_report]
    exact statusImage_congr u (by rw [hx]; rfl)
  · rw [hs, claimStatus_report]

end

/-! ### The end of a pulse (R188) -/

theorem attnPulseEnd_ends {s : State} {u : SetupBlock} (hj : claimsJoined s) (hu : s.setup.active = some u)
    (hm : pulseMode u = true) (hp : s.report.pulse = true) :
    ∃ t, exec .attnPulseEnd s = .next t ∧
      besidesStatus t = besidesStatus { s with report.pulse := false, attn := false } := by
  have hend : endPulse s = { s with report.pulse := false, attn := false } := by
    simp [endPulse, driveAttn, attnLevel, hu, hm]
  obtain ⟨t, ht, hb⟩ := event_effect s.report.pulse endPulse s hp (by rw [hend]; exact hj)
  exact ⟨t, ht, hend ▸ hb⟩

/-! ### The statement -/

/-- Settles O50: a write of the pass, the pulse's end, the image by its groups of columns, and a change noted at the end of
its event. -/
theorem statusPassAndPulse : Obligations.StatusPassAndPulse := by
  refine ⟨fun s u hj hu => ⟨fun a v c hp => ⟨fun d rest hl => ?_, fun hl hr => ?_, fun hl hr => ?_⟩, fun hm hp => ?_⟩,
    ?_, ?_⟩
  · exact statusWrite_next hp hj hu hl
  · exact statusWrite_last hp hj hu hl hr
  · exact statusWrite_again hp hj hu hl hr
  · exact attnPulseEnd_ends hj hu hm hp
  · intro s u n cols x digit lockCell cell
    refine ⟨fun ho => ?_, fun ho hc => ?_⟩
    · simp [statusImage, mirrorPos, ho, formSize, n, x]
    · have hlock : GivesFrom cell 0 (lockCells s.lock) := by
        intro j hj
        rw [length_lockCells] at hj
        rw [Nat.zero_add]
        refine (if_pos hj : cell j = lockCell j).trans ?_
        simp only [lockCell]
        cases s.lock with
        | opened | system => interval_cases j <;> rfl
        | error c => interval_cases j <;> cases c <;> rfl
      have hon (hi : s.composer.insertMode = true) : GivesFrom cell 9 (insertCells true) := by
        intro j hj
        change j < 3 at hj
        have hcell : cell (9 + j) = [0x0049#16, 0x004E#16, 0x0053#16].getD (9 + j - 9) 0x0020#16 :=
          (if_neg (by omega)).trans (if_pos ⟨hi, by omega, by omega⟩)
        rw [hcell, Nat.add_sub_cancel_left]
        rfl
      have hright (j : Nat) (h8 : 8 ≤ j) (hj : s.composer.insertMode = false ∨ j < 9 ∨ 11 < j) :
          cell j = cursorColumn cols x j :=
        (if_neg (by omega)).trans (if_neg fun ⟨hi, h9, h11⟩ => hj.elim (fun h => nomatch hi.symm.trans h) (by omega))
      have hrow := statusRow_of_shown hc hlock hon hright
      rw [statusImage, if_pos ho, mirrorPos, if_pos ho]
      change fromPos n (statusRow cols s.lock s.composer.insertMode x) ++ _ = _
      rw [hrow, fromPos_map_range]
      rfl
  · exact fun c s t hc => exec_notes hc

end Sys2Proof.Machine
end

section
/-! Validation (R196): each check in its own terms, and the verdict of the first that fails. -/

namespace Sys2Proof.Machine

/-! ### The checks on geometry, capacity, format and limits -/

theorem geometryFails_iff (u : SetupBlock) :
    geometryFails u = true ↔
      setupRows u < 1 ∨ 32 < setupRows u ∨ setupCols u < 8 ∨ 160 < setupCols u ∨
        4096 < setupRows u * setupCols u ∨ (statusRowOn u = true ∧ setupCols u < 24) := by
  simp only [geometryFails, Bool.or_eq_true, Bool.and_eq_true, decide_eq_true_eq, or_assoc]
  exact Iff.rfl

theorem capacityFails_iff (u : SetupBlock) :
    capacityFails u = true ↔ (setupWord u 14).toNat < 16 ∨ 4096 < (setupWord u 14).toNat := by
  simp only [capacityFails, Bool.or_eq_true, decide_eq_true_eq]
  exact Iff.rfl

/-- The format is defined when the rate and the parity are. -/
theorem scannerFormat_isNone (u : SetupBlock) :
    (scannerFormat u).isNone = true ↔ scannerRate u = none ∨ scannerParity u = none := by
  unfold scannerFormat
  cases scannerRate u <;> cases scannerParity u <;> simp

theorem scannerFails_iff (u : SetupBlock) :
    scannerFails u = true ↔
      scannerRate u = none ∨ scannerParity u = none ∨
        (0x80 ≤ (setupTerminator u).toNat ∧ setupTerminator u ≠ 0xFF#8) := by
  simp only [scannerFails, Bool.or_eq_true, scannerFormat_isNone, Bool.and_eq_true, decide_eq_true_eq, bne_iff_ne,
    or_assoc]
  exact Iff.rfl

theorem limitsFail_iff (u : SetupBlock) :
    limitsFail u = true ↔
      (setupWord u 18).toNat < 5 ∨ 1000 < (setupWord u 18).toNat ∨ 30000 < (setupWord u 19).toNat := by
  simp only [limitsFail, Bool.or_eq_true, decide_eq_true_eq, or_assoc]
  exact Iff.rfl

/-! ### The check on windows -/

theorem sharesByte_iff (b1 n1 b2 n2 : Nat) : sharesByte b1 n1 b2 n2 = true ↔ b1 < b2 + n2 ∧ b2 < b1 + n1 := by
  simp only [sharesByte, Bool.and_eq_true, decide_eq_true_eq]

theorem mem_windowNumbers (w : Nat) : w ∈ [0, 1, 2, 3] ↔ w < 4 := List.mem_range (n := 4)

/-- With one SCREEN window, the SCREEN base is that window's. -/
theorem exists_screen_iff {u : SetupBlock} (h : kindCount u .screen = 1) (P : Nat → Prop) :
    (∃ v < 4, windowKind u v = .screen ∧ P (windowBase u v)) ↔ P (screenBase u) := by
  obtain ⟨w, hw⟩ := List.length_eq_one_iff.mp h
  have hbase : screenBase u = windowBase u w := by
    have hfind : windowOf u .screen = some w := by
      unfold windowOf
      rw [← List.head?_filter, hw]
      rfl
    simp only [screenBase, hfind, Option.elim]
  have honly (v : Nat) : v < 4 ∧ windowKind u v = .screen ↔ v = w := by
    rw [← List.mem_singleton (a := v), ← hw, List.mem_filter, mem_windowNumbers, beq_iff_eq]
  simp only [← and_assoc, honly, exists_eq_left, hbase]

/-- What a window that is not DISABLED may not be: too large, off its alignment, too small for what it holds, over the
setup block, or, as RETURN or REPORT, over the used bytes of the SCREEN window (R196). -/
def WindowBad (k : BitVec 4) (u : SetupBlock) (w : Nat) : Prop :=
  11 < windowSizeCode u w ∨ windowBase u w % windowSize u w ≠ 0 ∨
    (windowKind u w = .screen ∧ windowSize u w < screenUsed u) ∨
    (windowKind u w = .return ∧ windowSize u w < 2 * (setupWord u 14).toNat) ∨
    (windowBase u w < setupBase k + 64 ∧ setupBase k < windowBase u w + windowSize u w) ∨
    ((windowKind u w = .return ∨ windowKind u w = .report) ∧
      ∃ v < 4, windowKind u v = .screen ∧ windowBase u w < windowBase u v + screenUsed u ∧
        windowBase u v < windowBase u w + windowSize u w)

theorem windowFails_iff {k : BitVec 4} {u : SetupBlock} {w : Nat} (h : kindCount u .screen = 1)
    (hk : windowKind u w ≠ .disabled) : windowFails k u w = true ↔ WindowBad k u w := by
  unfold WindowBad
  rw [exists_screen_iff h (fun b => windowBase u w < b + screenUsed u ∧ b < windowBase u w + windowSize u w)]
  simp only [windowFails, Bool.or_eq_true, decide_eq_true_eq, bne_iff_ne, sharesByte_iff]
  -- the base is a large numeral, which `tauto` would otherwise compute with
  generalize setupBase k = base
  match hw : windowKind u w with
  | .disabled => exact absurd hw hk
  | .screen =>
    simp only [decide_eq_true_eq, reduceCtorEq, true_and, false_and, false_or]
    tauto
  | .return =>
    simp only [Bool.or_eq_true, decide_eq_true_eq, sharesByte_iff, reduceCtorEq, true_and, false_and, false_or, true_or]
    unfold returnCapacity
    tauto
  | .report =>
    simp only [sharesByte_iff, reduceCtorEq, true_and, false_and, false_or, or_true]
    tauto

theorem windowsFail_iff (k : BitVec 4) (u : SetupBlock) :
    windowsFail k u = true ↔
      kindCount u .screen ≠ 1 ∨ kindCount u .report ≠ 1 ∨ 1 < kindCount u .return ∨
        ∃ w < 4, windowKind u w ≠ .disabled ∧ WindowBad k u w := by
  simp only [windowsFail, Bool.or_eq_true, bne_iff_ne, decide_eq_true_eq, List.any_eq_true, List.mem_filter,
    mem_windowNumbers, and_assoc, or_assoc]
  by_cases h : kindCount u .screen = 1
  · refine or_congr_right (or_congr_right (or_congr_right (exists_congr fun w => and_congr_right fun _ =>
      and_congr_right fun hk => windowFails_iff h hk)))
  · exact iff_of_true (.inl h) (.inl h)

/-! ### The verdict -/

/-- Each result names the first check that fails, in the order of R196. -/
theorem validate_iff (k : BitVec 4) (u : SetupBlock) :
    (validate k u = 0x8001#16 ↔ geometryFails u = true) ∧
    (validate k u = 0x8003#16 ↔ ¬geometryFails u = true ∧ capacityFails u = true) ∧
    (validate k u = 0x8002#16 ↔ ¬geometryFails u = true ∧ ¬capacityFails u = true ∧ windowsFail k u = true) ∧
    (validate k u = 0x8004#16 ↔
      ¬geometryFails u = true ∧ ¬capacityFails u = true ∧ ¬windowsFail k u = true ∧ scannerFails u = true) ∧
    (validate k u = 0x8005#16 ↔
      ¬geometryFails u = true ∧ ¬capacityFails u = true ∧ ¬windowsFail k u = true ∧ ¬scannerFails u = true ∧
        limitsFail u = true) ∧
    (validate k u = 0x0001#16 ↔
      ¬geometryFails u = true ∧ ¬capacityFails u = true ∧ ¬windowsFail k u = true ∧ ¬scannerFails u = true ∧
        ¬limitsFail u = true) := by
  unfold validate
  split_ifs <;> simp [*]

/-- Settles O21: the verdict by its checks, each check in its own terms. -/
theorem firstFailingCheckDecides : Obligations.FirstFailingCheckDecides := by
  intro k u
  have h := validate_iff k u
  rw [geometryFails_iff, capacityFails_iff, windowsFail_iff, scannerFails_iff, limitsFail_iff] at h
  exact h

end Sys2Proof.Machine
end

section
/-! Every command answers a next state, and no operation touches the queue of commands. -/

namespace Sys2Proof.Machine

/-! ### The field map and the transfer path -/

@[simp] theorem decideHeld_pending (s : State) : (decideHeld s).pending = s.pending :=
  pending_of_outside (outside_decideHeld s)

@[simp] theorem takePosting_pending (r : HeldRange) (s : State) : (takePosting r s).pending = s.pending :=
  pending_of_outside (outside_takePosting r s)

@[simp] theorem takeIn_pending (t : Transfer) (s : State) : (takeIn t s).pending = s.pending :=
  pending_of_outside (outside_takeIn t s)

@[simp] theorem rebuildEnded_pending (s : State) : (rebuildEnded s).pending = s.pending := by
  obtain ⟨r, b, c, hp, -⟩ := pauseLeft_form s
  rw [rebuildEnded_eq, decideHeld_pending, hp]

@[simp] theorem upkeep_pending (p : Nat) (w : Word) (s : State) : (upkeep p w s).pending = s.pending := by
  obtain ⟨m, i, a, r, b, c, cl, h, -⟩ := upkeep_form p w s
  rw [h]

@[simp] theorem learnTransfer_pending (t : PortTransfer) (s : State) : (learnTransfer t s).pending = s.pending := by
  obtain ⟨m, i, a, r, b, c, cl, h, -⟩ := learnTransfer_form t s
  rw [h]

@[simp] theorem learnWrite_pending (a : WordAddr) (s : State) : (learnWrite a s).pending = s.pending := by
  unfold learnWrite; repeat' split
  · rfl
  · exact upkeep_pending _ _ s
  · rfl

@[simp] theorem portDone_pending (t : PortTransfer) (s : State) : (portDone t s).pending = s.pending := rfl

@[simp] theorem giveReady_pending (o : Bool) (a : Answer) (s : State) : (giveReady o a s).pending = s.pending := by
  unfold giveReady leaveHand; repeat' split
  all_goals rfl

@[simp] theorem reportWrite_pending (i : Fin 32) (v : Word) (s : State) : (reportWrite i v s).pending = s.pending := by
  unfold reportWrite directiveWrite directiveWrite.acceptDirective reportWrite.clearIf
  dsimp only; repeat' split
  all_goals rfl

@[simp] theorem handReport_pending (i : Option (Fin 32)) (v : Word) (s : State) :
    (handReport i v s).pending = s.pending := by
  cases i with
  | none => rfl
  | some i => exact reportWrite_pending i v s

@[simp] theorem watchApply_pending (a : WordAddr) (l : Lanes) (v : Word) (s : State) :
    (watchApply a l v s).pending = s.pending := by
  unfold watchApply requestApply requestApply.ask; repeat' split
  all_goals rfl

@[simp] theorem tellBlocks_pending (i : Option (Fin 32)) (t : PortTransfer) (s : State) :
    (tellBlocks i t s).pending = s.pending := by
  unfold tellBlocks; split
  · rfl
  · rw [watchApply_pending, handReport_pending, learnWrite_pending]

@[simp] theorem processorDone_pending (i : Option (Fin 32)) (m o : Bool) (t : PortTransfer) (s : State) :
    (processorDone i m o t s).pending = s.pending := by
  have owed (y : State) : (takeOwedEmpty y).pending = y.pending := by
    unfold takeOwedEmpty; split
    · exact takePosting_pending _ y
    · rfl
  simp only [processorDone, owed, tellBlocks_pending, giveReady_pending, portDone_pending]

@[simp] theorem transferDone_pending (s : State) : (transferDone s).pending = s.pending := by
  unfold transferDone; repeat' split
  · rfl
  · rfl
  · exact processorDone_pending _ _ _ _ s
  · exact processorDone_pending _ _ _ _ s
  all_goals rfl

@[simp] theorem portGrant_pending (s : State) : (portGrant s).pending = s.pending := by
  unfold portGrant grantInternal grantProcessor; repeat' split
  all_goals rfl

@[simp] theorem mergeReadDone_pending (s : State) : (mergeReadDone s).pending = s.pending := by
  unfold mergeReadDone; repeat' split
  all_goals rfl

@[simp] theorem postingTaken_pending (s : State) : (postingTaken s).pending = s.pending := by
  unfold postingTaken; split
  · rfl
  · dsimp only; split
    · rw [resume_pending, setTodo_keeps_pending, takePosting_pending]
    · exact takePosting_pending _ s

@[simp] theorem composerDone_pending (s : State) : (composerDone s).pending = s.pending := by
  have done (op : Op) (rest : List Op) (w : Word) (y : State) : (opDone op rest w y).pending = y.pending := by
    unfold opDone; repeat' split
    all_goals rfl
  have counted (y : State) : (countIfWhole y).pending = y.pending := by
    unfold countIfWhole; split <;> rfl
  have carried (y : State) : (carryComposer y).pending = y.pending := by
    unfold carryComposer; split
    · rw [resume_pending, pending_of_outside (outside_abortList _), counted]
    · exact resume_pending y
  unfold composerDone; split
  · rfl
  · dsimp only; repeat' split
    · rfl
    · rw [learnTransfer_pending, portDone_pending]
    · rw [carried, done, learnTransfer_pending, portDone_pending]

/-! ### The resets, the status pass and the setup unit -/

@[simp] theorem warmReset_pending (s : State) : (abortNow (warmValues s)).pending = s.pending := by
  obtain ⟨ph, todo, c, h, -⟩ := abortNow_form (warmValues s)
  rw [h]; rfl

@[simp] theorem statusDone_pending (s : State) : (statusDone s).pending = s.pending := by
  unfold statusDone; split
  · rfl
  · dsimp only; repeat' split
    · rfl
    · rfl
    · rw [claimStatus_eq]; rfl

@[simp] theorem startRebuild_pending (s : State) : (startRebuild s).pending = s.pending := by
  unfold startRebuild; split <;> rfl

@[simp] theorem setupReadDone_pending (s : State) : (setupReadDone s).pending = s.pending := by
  have switched (u : SetupBlock) (y : State) : (switchEvent u y).pending = y.pending := by
    obtain ⟨f, p, h⟩ := switchValues_format u y
    rw [switchEvent, pending_of_outside (outside_decideAnew _), startRebuild_pending, h]; rfl
  have judged (y : State) : (judgeSetup y).pending = y.pending := by
    unfold judgeSetup; dsimp only; split
    · exact switched _ y
    · rfl
  unfold setupReadDone; split
  · rfl
  · dsimp only; repeat' split
    · rfl
    · rfl
    · exact judged _

@[simp] theorem resultWordDone_pending (s : State) : (resultWordDone s).pending = s.pending := by
  unfold resultWordDone; dsimp only; repeat' split
  all_goals rfl

@[simp] theorem resultDone_pending (s : State) : (resultDone s).pending = s.pending := by
  unfold resultDone applyRefused leavePause; dsimp only; repeat' split
  all_goals rfl

@[simp] theorem scanReadDone_pending (s : State) : (scanReadDone s).pending = s.pending := by
  have advanced (y : State) : (scanAdvanced y).pending = y.pending := by
    unfold scanAdvanced claimScan; repeat' split
    · exact rebuildEnded_pending _
    all_goals rfl
  have word (w : Word) (y : State) : (scanWord w y).pending = y.pending := by
    unfold scanWord; repeat' split
    · exact rebuildEnded_pending _
    all_goals exact advanced _
  unfold scanReadDone; split
  · rfl
  · dsimp only; repeat' split
    · rfl
    · exact word _ _
    · rfl

/-! ### The lines, the timer and the verdict -/

@[simp] theorem lineError_pending (fr : FrameResult) (s : State) : (lineError fr s).pending = s.pending := by
  unfold lineError; split <;> rfl

@[simp] theorem keyboardResult_pending (fr : FrameResult) (s : State) : (keyboardResult fr s).pending = s.pending := by
  unfold keyboardResult; repeat' split
  · exact lineError_pending fr s
  all_goals rfl

@[simp] theorem endScan_pending (w : Word) (s : State) : (endScan w s).pending = s.pending := by
  unfold endScan judgeScan; dsimp only; repeat' split
  all_goals rfl

@[simp] theorem gapExpiry_pending (s : State) : (gapExpiry s).pending = s.pending := endScan_pending _ _

@[simp] theorem scannerResult_pending (fr : FrameResult) (s : State) : (scannerResult fr s).pending = s.pending := by
  have collected (y : State) : (collectFrame fr y).pending = y.pending := by
    unfold collectFrame startScan; repeat' split
    · rfl
    · rfl
    · rfl
    · exact gapExpiry_pending y
    · rfl
    · exact gapExpiry_pending y
    · rfl
  exact (collected _).trans (lineError_pending fr s)

@[simp] theorem formatAtIdle_pending (b : RxState) (s : State) : (formatAtIdle b s).pending = s.pending := by
  unfold formatAtIdle takeFormat; repeat' split
  all_goals rfl

@[simp] theorem scannerCompletes_pending (fr : FrameResult) (s : State) :
    (scannerCompletes fr s).pending = s.pending := by
  rw [scannerCompletes_eq]
  exact scannerResult_pending fr _

@[simp] theorem lineSampled_pending (l : Line) (m : Bool) (s : State) : (lineSampled l m s).pending = s.pending := by
  cases l with
  | kbd =>
    show (keyboardSample m s).pending = _
    unfold keyboardSample; dsimp only; split
    · exact keyboardResult_pending _ _
    · rfl
  | scn =>
    show (scannerSample m s).pending = _
    unfold scannerSample; dsimp only; split
    · exact (scannerResult_pending _ _).trans (formatAtIdle_pending _ _)
    · exact formatAtIdle_pending _ _

@[simp] theorem tick_pending (s : State) : (tick s).pending = s.pending := by
  have gap (y : State) : (gapIfDue y).pending = y.pending := by
    unfold gapIfDue; split
    · exact gapExpiry_pending y
    · rfl
  have holdoff (y : State) : (holdoffIfDue y).pending = y.pending := by
    unfold holdoffIfDue; split <;> rfl
  have tone : (toneIfDue s).pending = s.pending := by
    unfold toneIfDue; split <;> rfl
  have expiries (y : State) : (scanExpiries y).pending = y.pending := by
    unfold scanExpiries; dsimp only; repeat' split
    · rw [gap, holdoff]
    · rw [holdoff, gap]
    · rw [holdoff, gap]
  exact (expiries _).trans tone

@[simp] theorem headVerdict_pending (s : State) : (headVerdict s).pending = s.pending := by
  have slot (t : Token) (y : State) : (takeSlot t y).pending = y.pending := by cases t <;> rfl
  have noted (t : Token) (y : State) : (noteSend t y).pending = y.pending := by
    unfold noteSend; repeat' split
    all_goals rfl
  have taken (t : Token) (rest : List Token) : (takeToken t rest s).pending = s.pending := by
    unfold takeToken; dsimp only; split
    · rw [pending_of_outside (outside_refuse _ _), noted, slot]
    · rw [noted, slot]
  have discarded (t : Token) (rest : List Token) : (discardToken t rest s).pending = s.pending := by
    cases t <;> rfl
  unfold headVerdict; repeat' split
  · rfl
  · exact taken _ _
  · rfl
  · exact discarded _ _
  · rfl
  · exact discarded _ _

/-! ### The beginnings of tokens and directives: the composer's own operations -/

@[simp] theorem outside_moveCursor (x : Nat) (s : State) : outside (moveCursor x s) = outside s := by simp [moveCursor]

@[simp] theorem outside_beginMove (c : Byte) (s : State) : outside (beginMove c s) = outside s := by
  unfold beginMove; dsimp only; split
  · simp
  · exact outside_moveCursor _ s

@[simp] theorem outside_backspace (s : State) : outside (backspace s) = outside s := by
  unfold backspace; repeat' split
  · exact outside_moveCursor _ s
  · simp
  · simp

@[simp] theorem outside_beginHold (s : State) : outside (beginHold s) = outside s := by simp [beginHold]

@[simp] theorem outside_beginErase (s : State) : outside (beginErase s) = outside s := by simp [beginErase]

@[simp] theorem outside_beginSend (s : State) : outside (beginSend s) = outside s := by
  refine (outside_resume _).trans ?_
  repeat' split
  all_goals simp

@[simp] theorem outside_runUnlock (s : State) : outside (runUnlock s) = outside s := by
  unfold runUnlock runUnlock.unlock; repeat' split
  all_goals simp

@[simp] theorem outside_placeCursor (s : State) : outside (placeCursor s) = outside s := by
  unfold placeCursor; split <;> simp

@[simp] theorem outside_gatherFields (s : State) : outside (gatherFields s) = outside s := by
  unfold gatherFields; dsimp only; split
  · exact outside_finishDirective _ _
  · exact (outside_resume _).trans (outside_openList _)

@[simp] theorem outside_resetModified (s : State) : outside (resetModified s) = outside s := by
  unfold resetModified; split <;> simp

@[simp] theorem outside_clearInput (s : State) : outside (clearInput s) = outside s := by
  unfold clearInput; split <;> simp

@[simp] theorem flushQueue_pending (s : State) : (flushQueue s).pending = s.pending := by
  unfold flushQueue
  rw [pending_of_outside (outside_finishDirective _ _), freeTokens_frame]

/-! ### The outcomes -/

/-- The outcome is a next state, with the queue of commands as it was. -/
def AnswersNext (s : State) (o : Host.Outcome State Fault Refusal) : Prop :=
  ∃ t, o = .next t ∧ t.pending = s.pending

theorem answersNext_unchanged (s : State) : AnswersNext s (.next s) := ⟨s, rfl, rfl⟩

/-- An event answers so when its effect leaves the queue of commands. -/
theorem event_answersNext {can : Bool} {f : State → State} {s : State} (hf : (f s).pending = s.pending) :
    AnswersNext s (event can f s) := by
  cases can with
  | false => exact answersNext_unchanged s
  | true => exact ⟨_, rfl, (settle_pending s (f s)).trans hf⟩

theorem readReport_answersNext (i : Fin 32) (cls : AccessClass) (l : Lanes) (s : State) :
    AnswersNext s (readReport i cls l s) := by
  unfold readReport; split
  · exact answersNext_unchanged s
  · exact event_answersNext (takeIn_pending _ s)

theorem wordWriteRow_answersNext (i : Option (Fin 32)) (a : WordAddr) (cls : AccessClass) (v : Word) (s : State) :
    AnswersNext s (wordWriteRow i a cls v s) := by
  unfold wordWriteRow; dsimp only; split
  · exact event_answersNext (transferDone_pending s)
  · exact event_answersNext (by rw [writeThrough, transferDone_pending, portGrant_pending, takeIn_pending])

theorem reportWriteRow_answersNext (i : Fin 32) (cls : AccessClass) (v : Word) (s : State) :
    AnswersNext s (reportWriteRow i cls v s) := by
  unfold reportWriteRow; split
  · exact answersNext_unchanged s
  · exact wordWriteRow_answersNext _ _ cls v s

theorem tokenRow_answersNext {p : Token → Bool} {f : State → State} (hf : ∀ y, outside (f y) = outside y)
    (s : State) : AnswersNext s (tokenRow p f s) :=
  event_answersNext (f := fun s => f { s with composer.begun := true }) (pending_of_outside (hf _))

theorem directiveRow_answersNext {d : Directive} {f : State → State} (hf : ∀ y, (f y).pending = y.pending)
    (s : State) : AnswersNext s (directiveRow d f s) :=
  event_answersNext (f := fun s => f (takeDirective d s)) (hf _)

/-- Every command answers so. -/
theorem exec_answersNext (c : Instr) (s : State) : AnswersNext s (exec c s) := by
  cases c with
  | coldReset =>
    refine ⟨_, rfl, ?_⟩
    split <;> rfl
  | coldResetEnd straps => exact event_answersNext (f := coldEnded straps) rfl
  | warmReset => exact event_answersNext (can := true) (f := fun s => abortNow (warmValues s)) (warmReset_pending s)
  | processorTransfer t => exact event_answersNext (takeIn_pending t s)
  | memoryPortGrant => exact event_answersNext (portGrant_pending s)
  | processorTransferCompletion => exact event_answersNext (transferDone_pending s)
  | mergeReadCompletion => exact event_answersNext (mergeReadDone_pending s)
  | heldRangePosting => exact event_answersNext (postingTaken_pending s)
  | readStateWord | readCauseWord => exact readReport_answersNext _ _ _ s
  | directiveIntake | unknownDirective | writeOperand | clearCounter | clearCauses | reportWordWrite =>
    exact reportWriteRow_answersNext _ _ _ s
  | applyRequest cls v =>
    show AnswersNext s (if s.coldAsserted then _ else _)
    split
    · exact answersNext_unchanged s
    · exact wordWriteRow_answersNext _ _ cls v s
  | applyTaken => exact event_answersNext (f := takeApply) rfl
  | setupReadCompletion => exact event_answersNext (setupReadDone_pending s)
  | resultWordWriteCompletion => exact event_answersNext (resultWordDone_pending s)
  | resultEvent => exact event_answersNext (resultDone_pending s)
  | scanReadCompletion => exact event_answersNext (scanReadDone_pending s)
  | keyboardFrame code p f =>
    exact event_answersNext (f := keyboardCompletes ⟨code, p, f⟩) (keyboardResult_pending _ _)
  | scannerFrame => exact event_answersNext (scannerCompletes_pending _ s)
  | gapCompareExpiry => exact event_answersNext (gapExpiry_pending s)
  | holdoffCompareExpiry => exact event_answersNext (f := holdoffExpiry) rfl
  | toneCompareExpiry => exact event_answersNext (f := toneExpiry) rfl
  | headVerdict => exact event_answersNext (headVerdict_pending s)
  | cur | cul | cuu | cud => exact tokenRow_answersNext (fun y => outside_moveCursor _ y) s
  | hom | tab | btb | nln => exact tokenRow_answersNext (outside_beginMove _) s
  | bsp => exact tokenRow_answersNext outside_backspace s
  | ins =>
    exact tokenRow_answersNext (f := fun y => endWork { y with composer.insertMode := !y.composer.insertMode })
      (fun y => outside_endWork _) s
  | rst => exact tokenRow_answersNext (f := fun y => endWork (insertOff y)) (fun y => outside_endWork _) s
  | dataCharacter | del | eef | fex | fmn | scanToken => exact tokenRow_answersNext outside_beginHold s
  | ein | clr => exact tokenRow_answersNext outside_beginErase s
  | ent | f1ToF12 => exact tokenRow_answersNext outside_beginSend s
  | composerTransferCompletion => exact event_answersNext (composerDone_pending s)
  | unlk => exact directiveRow_answersNext (fun y => pending_of_outside (outside_runUnlock y)) s
  | lock =>
    exact directiveRow_answersNext (f := fun y => finishDirective .done (lockKeyboard y))
      (fun y => pending_of_outside ((outside_finishDirective _ _).trans (outside_lockKeyboard y))) s
  | plcr => exact directiveRow_answersNext (fun y => pending_of_outside (outside_placeCursor y)) s
  | gmod | gunp => exact directiveRow_answersNext (fun y => pending_of_outside (outside_gatherFields y)) s
  | rmod => exact directiveRow_answersNext (fun y => pending_of_outside (outside_resetModified y)) s
  | clin => exact directiveRow_answersNext (fun y => pending_of_outside (outside_clearInput y)) s
  | rbld => exact directiveRow_answersNext (f := rebuildMap) (fun y => startRebuild_pending _) s
  | flsh => exact directiveRow_answersNext flushQueue_pending s
  | statusWriteCompletion => exact event_answersNext (statusDone_pending s)
  | attnPulseEnd => exact event_answersNext (f := endPulse) rfl
  | lineSample => exact event_answersNext (lineSampled_pending _ _ s)
  | keyingTimerTick => exact event_answersNext (tick_pending s)

/-- Settles O2: each command's outcome, its operations having left the queue of commands as it was. -/
theorem everyCommandAnswersNextState : Obligations.EveryCommandAnswersNextState := exec_answersNext

end Sys2Proof.Machine
end

section
/-! SUPPORT. One step of the machine, a rule for each state of the queue of commands: a command at its front, and
none waiting (log 5). -/

namespace Sys2Proof.Machine

/-- The command leaves the queue before it runs: `exec` sees the queue's rest. -/
theorem step_of_pending_cons {s : State} {c : Instr} {rest : List Instr} (h : s.pending = c :: rest) :
    step s = exec c { s with pending := rest } := by
  unfold step
  rw [h]

/-- The idle step (log 5). -/
theorem step_of_pending_nil {s : State} (h : s.pending = []) : step s = .next s := by
  unfold step
  rw [h]

/-- Settles O1, by the step's rules for a queue with a command at its front and for an empty one. -/
theorem stepRunsFrontCommand : Obligations.StepRunsFrontCommand :=
  ⟨fun _ _ _ => step_of_pending_cons rfl, fun _ => step_of_pending_nil⟩

end Sys2Proof.Machine
end
